-- ==== Sys2Proof/Word.lean ====
section
/-! DEFINITION. The two bit-vector types of the block: a byte of a frame or of the buffer, and a 32-bit word (00_scope.md R18, R19). -/

namespace Sys2Proof

/-- One byte of a frame, of the buffer memory or of `CMD.CODE` (R19: "byte values are 8-bit unsigned"). -/
abbrev Byte := BitVec 8

/-- A 32-bit register, counter, address, size, status or result (R19). -/
abbrev Word := BitVec 32

end Sys2Proof
end

