-- ==== Sys2Proof/Config.lean ====
section
/-! DEFINITION. What is fixed for this hardware: the implementation parameters of 00_scope.md (R6 to R17), and the one source of free values. -/

namespace Sys2Proof.Config

/-- R6: the CRC8 polynomial, MSB-first, without the x^8 term. -/
@[simp] abbrev poly : Byte := 0x38

/-- R7: the initial CRC value of every frame. -/
@[simp] abbrev seed : Byte := 0xFF

/-- R8: the timeout used when the request's timeout is 0. -/
@[simp] abbrev defaultTimeoutMs : Word := 5000

/-- R9: the slot budget used when the request's retry count is 0. -/
@[simp] abbrev defaultMaxRetries : Word := 5

/-- R10: the largest payload of one frame. -/
@[simp] abbrev maxPayload : Nat := 240

/-- R11: the largest FIFO chunk payload. -/
@[simp] abbrev chunkMax : Nat := 240

/-- R12: the status an `ACK_READ_FIFO` carries to say the device FIFO is empty. -/
@[simp] abbrev fifoEmptyStatus : Word := 1

/-- R13: retries exhausted with no status ever obtained. -/
@[simp] abbrev errInternal : Word := -1

/-- R13: caller-contract violation. -/
@[simp] abbrev errInvalid : Word := -2

/-- R13: aborted from the chunk callback. -/
@[simp] abbrev errAborted : Word := -3

/-- R15: bytes in `TXBUF`. -/
@[simp] abbrev txbufSize : Nat := 249

/-- R15: bytes in `RXBUF`. -/
@[simp] abbrev rxbufSize : Nat := 248

/-- R37: the interface revision byte shown in `INFO`. -/
@[simp] abbrev revision : Byte := 0x01

/-- Where a failed await-ack attempt goes back to (the readings of R17 (a) and (b)). -/
inductive AckRetry where
  /-- Receive again; the request is not re-sent (R17's `phase_local`). -/
  | receiveAgain
  /-- Send again, then receive (R17's `restart_exchange` and `resend_chunk`). -/
  | sendAgain
  deriving DecidableEq, Repr

/-- R17 (a): `REG_ACK_RETRY = phase_local`. -/
@[simp] abbrev regAckRetry : AckRetry := .receiveAgain

/-- R17 (b): `FIFO_ACK_RETRY = resend_chunk`. -/
@[simp] abbrev fifoAckRetry : AckRetry := .sendAgain

/-- R17 (c): where the CRC of an `ACK_READ_FIFO` stands. -/
inductive FifoAckCrcAt where
  /-- Right after the returned data. -/
  | afterCount
  /-- At the end of the received bytes. -/
  | endOfFrame
  deriving DecidableEq, Repr

/-- R17 (c): `FIFO_ACK_CRC_AT = after_count`. -/
@[simp] abbrev fifoAckCrcAt : FifoAckCrcAt := .afterCount

/-- R17 (d): what "reset the timestamp" of a phase record does. -/
inductive SlotReset where
  /-- The next window starts at the failure that counted the slot. -/
  | now
  /-- The record is disarmed and armed again at the next failure. -/
  | rearmOnNextFailure
  deriving DecidableEq, Repr

/-- R17 (d): `SLOT_TIMESTAMP_RESET = now`. -/
@[simp] abbrev slotTimestampReset : SlotReset := .now

/-- R17 (e): `REG_NOERROR = honoured`: no-error mode also ends register commands at their first failure. -/
@[simp] abbrev regNoErrorHonoured : Bool := true

/-- The one source of free values: word number `slot` of draw number `draw`.
It has no body, so nothing can be proved about a value of it (log 9 and log 14). -/
opaque freeWord (draw slot : Nat) : Word

end Sys2Proof.Config
end

