-- ==== Sys2Proof/Syntax.lean ====
section
/-! DEFINITION. The instructions: one constructor for each of the 18 rows of spec/opcode_table.json, and the request a host command carries. -/

namespace Sys2Proof

/-- The operands of a host command, the contents of the request registers (R24 to R29) as the fields of a Transfer Request.
`flags` are FLAGS bits 4:0: START, END, RETRY, CB_EN, CLASS. -/
structure Request where
  addr : Word
  ptr : Word
  size : Word
  timeout : Word
  retries : Word
  flags : BitVec 5
  deriving DecidableEq, Repr

/-- The instructions of the block (R2): host commands, control writes, and the frames on the wire. -/
inductive Instr where
  /-- `WRITE_REGISTER`, CMD.CODE 0x01 (R190). -/
  | writeRegister (req : Request)
  /-- `READ_REGISTER`, CMD.CODE 0x02 (R191). -/
  | readRegister (req : Request)
  /-- `WRITE_FIFO`, CMD.CODE 0x04 (R220). -/
  | writeFifo (req : Request)
  /-- `READ_FIFO`, CMD.CODE 0x08 (R224). -/
  | readFifo (req : Request)
  /-- `SET_CHANNEL_TIMEOUT`, CMD.CODE 0x10 (R289); the operands but `timeout` are latched and never used. -/
  | setChannelTimeout (req : Request)
  /-- `GO`: a CONTROL write with bit 0 set (R281); its bits 1 and 2 are operands (R288). -/
  | go (cbAck abort : Bool)
  /-- `CB_ACK`: a CONTROL write with bit 1 set, bits 0 and 2 clear (R291). -/
  | cbAck
  /-- `CB_ACK_ABORT`: a CONTROL write with bits 1 and 2 set, bit 0 clear (R238). -/
  | cbAckAbort
  /-- `DONE_CLEAR`: a STATUS write with bit 1 set (R293). -/
  | doneClear
  /-- `WRITE` request frame (R94); `hint` is the ClassTagged hint byte (R92). -/
  | write (hint : Option Byte) (addr : Word) (payload : List Byte)
  /-- `READ` request frame (R95). -/
  | read (hint : Option Byte) (addr : Word) (size : Byte)
  /-- `WRITE_FIFO` request frame (R96). -/
  | writeFifoFrame (hint : Option Byte) (fop : Byte) (addr : Word) (payload : List Byte)
  /-- `READ_FIFO` request frame (R97). -/
  | readFifoFrame (hint : Option Byte) (fop : Byte) (addr : Word) (size : Byte)
  /-- `ACK_WRITE` frame (R98): every byte as received, so `len` and `crc` may be wrong. -/
  | ackWrite (len : Byte) (status : Word) (crc : Byte)
  /-- `ACK_READ` frame (R99). -/
  | ackRead (len : Byte) (status : Word) (data : List Byte) (crc : Byte)
  /-- `ACK_WRITE_FIFO` frame (R100). -/
  | ackWriteFifo (len : Byte) (status : Word) (crc : Byte)
  /-- `ACK_READ_FIFO` frame (R101): the count is the number of `data` bytes; `rest` are the bytes after the CRC. -/
  | ackReadFifo (len : Byte) (status : Word) (data : List Byte) (crc : Byte) (rest : List Byte)
  /-- `ACK_ERROR` frame (R102): no layout but the ack byte; `status` and `rest` are the bytes that follow. -/
  | ackError (len : Byte) (status : Word) (rest : List Byte)
  deriving DecidableEq, Repr

end Sys2Proof
end

