-- ==== Sys2Proof/Machine/State.lean ====
section
/-! DEFINITION. The state of the block as the spec lists it (10_state.md), the agents' moves as plain data, the reasons a step can stop, and the state after reset. -/

namespace Sys2Proof.Machine

/-- R40: the engine states, the block's analogue of a program counter. -/
inductive EngineState where
  | idle
  | send
  | sendWait
  | recv
  | recvWait
  | cbWait
  | ctlWait
  deriving DecidableEq, Repr

/-- R41: the latched request `Q`. `endf` is `Q.end`, `retryEn` is `Q.retry_en`, `cbEn` is `Q.cb_en`. -/
structure Latched where
  code : Byte
  addr : Word
  ptr : Word
  size : Word
  /-- The effective timeout `Q.T`. -/
  T : Word
  noerr : Bool
  /-- The effective slot budget `Q.R`. -/
  R : Word
  start : Bool
  endf : Bool
  retryEn : Bool
  cbEn : Bool
  tagged : Bool
  rawT : Word
  deriving DecidableEq, Repr

/-- R42: the cursor `C` over the caller's buffer. -/
structure Cursor where
  remaining : Word
  offset : Word
  first : Bool
  deriving DecidableEq, Repr

/-- R43: the chunk record `K`; its `size` is 0 to 240. -/
structure Chunk where
  size : Nat
  final : Bool
  resend : Bool
  deriving DecidableEq, Repr

/-- R44: a phase record, `PS` or `PA`. -/
structure Phase where
  slots : Word
  armed : Bool
  t0 : Word
  deriving DecidableEq, Repr

/-- R45: the last status `LS`. -/
structure LastStatus where
  valid : Bool
  value : Word
  deriving DecidableEq, Repr

/-- R46: the pending end `E`. -/
structure PendingEnd where
  pending : Bool
  status : Word
  deriving DecidableEq, Repr

/-- R140 to R145: a transport request with its operands. -/
inductive TxRequest where
  /-- `TxSend(f, n, t)` (R141). -/
  | send (f : List Byte) (n : Nat) (t : Word)
  /-- `TxRecv(n, t)` (R142). -/
  | recv (n : Nat) (t : Word)
  /-- `TxSetTimeout(t)` (R145). -/
  | setTimeout (t : Word)
  deriving DecidableEq, Repr

/-- R60 and R62: a range of buffer-memory bytes that the platform backs with memory (log 6). -/
structure Region where
  base : Nat
  size : Nat
  deriving DecidableEq, Repr

/-- R60: buffer memory, the listed bytes at strictly rising addresses; what an unlisted byte reads as is `unlistedByte` (log 5). -/
abbrev Memory := List Host.Cell

/-- What one agent does next (log 1). The engine's own turn is a move as well, so that the order in which the agents move is data. -/
inductive Move where
  /-- The engine takes its step, where it has one (R354). -/
  | engine
  /-- The host writes `data` at `offset` of the register window, with an access of `width` bits (R22). -/
  | hostWrite (width offset : Nat) (data : Word)
  /-- The host reads at `offset` with an access of `width` bits (R22). -/
  | hostRead (width offset : Nat)
  /-- The transport answers the outstanding request with `r` and, for a `TxRecv`, the bytes `d` (R141, R142, R145, R150). -/
  | response (r : Word) (d : List Byte)
  /-- The transport answers a request that a reset abandoned (R342). -/
  | lateResponse (r : Word) (d : List Byte)
  /-- The time agent advances `TIME_MS` (R260). -/
  | time (ms : Nat)
  /-- The host stores a byte in its buffer memory (R77). -/
  | bufStore (a : Word) (v : Byte)
  /-- The host loads a byte of its buffer memory (R77). -/
  | bufLoad (a : Word)
  /-- The platform asserts `rst` (R340). -/
  | rst
  deriving DecidableEq, Repr

/-- The state of the machine. -/
structure State where
  -- host registers (R23 to R36)
  cmd : BitVec 8
  addr : Word
  dataPtr : Word
  dataSize : Word
  timeoutMs : Word
  maxRetries : Word
  flags : BitVec 5
  busy : Bool
  done : Bool
  chunkPending : Bool
  result : Word
  bytesDone : Word
  irqEn : BitVec 2
  chanTimeout : Word
  chunks : Word
  -- the engine (R40 to R47, R51)
  engine : EngineState
  q : Latched
  c : Cursor
  k : Chunk
  ps : Phase
  pa : Phase
  ls : LastStatus
  e : PendingEnd
  txbuf : List Byte
  txlen : Nat
  rxbuf : List Byte
  rxn : Nat
  expack : Byte
  outstanding : Option TxRequest
  -- the time input and the buffer memory (R60, R260)
  timeMs : Word
  bufmem : Memory
  -- the model's own (log 1, log 6, log 9, log 13)
  backed : List Region
  env : List Move
  portData : Word
  bufData : Byte
  freeCount : Nat
  deriving DecidableEq, Repr

/-- The machine stops. Raised where the spec gives the block no step. -/
inductive Fault where
  /-- Raised by a buffer-memory access of the engine or the host at an address the platform does not back (R62, I2: "the engine has no step (it is stuck)").
  Safe: the hardware has no step there either. -/
  | unbackedByte (a : Word)
  deriving DecidableEq, Repr

/-- The machine has no meaning for the move or the instruction. -/
inductive Refusal where
  /-- Raised by `exec` for an instruction that has no meaning in the model yet. Safe. -/
  | notModelled (mnemonic : String)
  /-- Raised by a host register access that is not 32 bits wide, not at a multiple of 4, or outside the window (R22, R73, I3:
  "a model refuses it (it has no step)"). Safe. -/
  | hostAccessNotAdmitted (width offset : Nat)
  /-- Raised by a host store to a buffer byte of the running command (R77, R350, I9: "A model gives the host no such move"). Safe. -/
  | hostStoreWhileBusy (a : Word)
  /-- Raised by a `TxRecv` response that reports the full count but does not bring that many bytes (R142, log 10): no response of a transport. Safe. -/
  | responseBytesMissing
  /-- Raised by a request frame run in an engine state other than SEND (R146, log 15): the block sends a frame in no other state. Safe. -/
  | noSendStep
  deriving DecidableEq, Repr

/-- The outcome of an operation: a value, or the reason the step stops. -/
abbrev Res (α : Type) := Host.Outcome α Fault Refusal

/-- A latched request with every field 0 (the value the model names for reset, log 7). -/
def Latched.zero : Latched :=
  { code := 0, addr := 0, ptr := 0, size := 0, T := 0, noerr := false, R := 0, start := false, endf := false,
    retryEn := false, cbEn := false, tagged := false, rawT := 0 }

/-- R340 and 10_state.md section 4: the machine right after reset. The registers are the spec's; the hidden records are the values log 7 names;
`TIME_MS`, the memory and its backing are the environment's (log 5, log 6, log 8); no agent has a move. -/
def State.reset : State :=
  { cmd := 0, addr := 0, dataPtr := 0, dataSize := 0, timeoutMs := 0, maxRetries := 0, flags := 0,
    busy := false, done := false, chunkPending := false, result := 0, bytesDone := 0, irqEn := 0, chanTimeout := 0, chunks := 0,
    engine := .idle, q := Latched.zero,
    c := { remaining := 0, offset := 0, first := false }, k := { size := 0, final := false, resend := false },
    ps := { slots := 0, armed := false, t0 := 0 }, pa := { slots := 0, armed := false, t0 := 0 },
    ls := { valid := false, value := 0 }, e := { pending := false, status := 0 },
    txbuf := List.replicate 249 0, txlen := 0, rxbuf := List.replicate 248 0, rxn := 0, expack := 0, outstanding := none,
    timeMs := 0, bufmem := [], backed := [{ base := 0, size := 4294967296 }],
    env := [], portData := 0, bufData := 0, freeCount := 0 }

end Sys2Proof.Machine
end

