-- ==== Sys2Proof/Machine/Memory.lean ====
section
/-! DEFINITION. Buffer memory as a list in one canonical form, and the byte and range accesses of the engine (20_memory.md). -/

namespace Sys2Proof.Machine

/-- What a byte of buffer memory that nothing has written reads as (DESIGN CHOICE 0, unsafe, log 5). -/
def unlistedByte : Byte := 0

/-- The byte at `a`. -/
def memGet : Memory → Nat → Byte
  | [], _ => unlistedByte
  | (b, v) :: m, a => if b = a then v else memGet m a

/-- A cell in front of a memory, unless it holds what an unlisted byte reads as. -/
def consCell (a : Nat) (v : Byte) (m : Memory) : Memory :=
  if v = unlistedByte then m else (a, v) :: m

/-- The memory with the byte at `a` set to `v`, in canonical form. -/
def memSet : Memory → Nat → Byte → Memory
  | [], a, v => consCell a v []
  | (b, w) :: m, a, v =>
    if a < b then consCell a v ((b, w) :: m)
    else if a = b then consCell a v m
    else (b, w) :: memSet m a v

/-- Every cell lies at `lo` or above, at rising addresses below 2^32, and none holds the unlisted byte. -/
def memWfFrom (lo : Nat) : Memory → Bool
  | [] => true
  | (a, v) :: m => decide (lo ≤ a) && decide (a < 4294967296) && decide (v ≠ unlistedByte) && memWfFrom (a + 1) m

/-- The canonical form of buffer memory. -/
def Memory.wf (m : Memory) : Bool := memWfFrom 0 m

/-- R62: the platform backs the byte at `a`. -/
def isBacked (s : State) (a : Word) : Bool :=
  s.backed.any fun r => decide (r.base ≤ a.toNat) && decide (a.toNat < r.base + r.size)

/-- An operation after another: the second runs on the first one's value. -/
def andThen {α β : Type} (o : Res α) (f : α → Res β) : Res β :=
  match o with
  | .next a => f a
  | .fault r => .fault r
  | .refused r => .refused r

/-- R62: `MemRead(a, 1)`. -/
def memRead (s : State) (a : Word) : Res Byte :=
  if isBacked s a then .next (memGet s.bufmem a.toNat) else .fault (.unbackedByte a)

/-- R62: `MemWrite(a, 1, v)`. -/
def memWrite (a : Word) (v : Byte) (s : State) : Res State :=
  if isBacked s a then .next { s with bufmem := memSet s.bufmem a.toNat v } else .fault (.unbackedByte a)

/-- R63: `n` bytes from `a` on, read in ascending order. -/
def readBytes (s : State) (a : Word) : Nat → Res (List Byte)
  | 0 => .next []
  | n + 1 => andThen (memRead s a) fun v => andThen (readBytes s (a + 1) n) fun vs => .next (v :: vs)

/-- R64: the bytes written from `a` on, in ascending order. -/
def writeBytes (a : Word) : List Byte → State → Res State
  | [], s => .next s
  | v :: vs, s => andThen (memWrite a v s) (writeBytes (a + 1) vs)

/-- The bytes that stand at `n` successive addresses from `a` on. -/
def bufBytes (m : Memory) (a : Word) : Nat → List Byte
  | 0 => []
  | n + 1 => memGet m a.toNat :: bufBytes m (a + 1) n

/-- The memory with the given bytes at successive addresses from `a` on. -/
def memSetAll (m : Memory) (a : Word) : List Byte → Memory
  | [] => m
  | v :: vs => memSetAll (memSet m a.toNat v) (a + 1) vs

/-- R62: the platform backs the `n` bytes from `a` on ("The host owes the block a backed buffer"). -/
def rangeBacked (s : State) (a : Word) : Nat → Bool
  | 0 => true
  | n + 1 => isBacked s a && rangeBacked s (a + 1) n

end Sys2Proof.Machine
end

