-- ==== Sys2Proof/Machine/Bytes.lean ====
section
/-! DEFINITION. Byte order and byte sequences: the little-endian words of the wire (R19, R67), and reading and writing inside a byte buffer (R18). -/

namespace Sys2Proof.Machine

/-- R19: `le32(v)`, least significant byte first. -/
def le32 (v : Word) : List Byte :=
  [v.extractLsb' 0 8, v.extractLsb' 8 8, v.extractLsb' 16 8, v.extractLsb' 24 8]

/-- R19: `s32le(b0,b1,b2,b3)`, the inverse of `le32`. -/
def s32le (b0 b1 b2 b3 : Byte) : Word :=
  b0.setWidth 32 ||| (b1.setWidth 32 <<< 8) ||| (b2.setWidth 32 <<< 16) ||| (b3.setWidth 32 <<< 24)

/-- R18: byte `i` of a frame or buffer (0 beyond its end, which no rule reads). -/
def byteAt (f : List Byte) (i : Nat) : Byte := f.getD i 0

/-- `buf` with the bytes `bs` written from offset `at_` on; every other byte keeps its value. -/
def overwrite (buf : List Byte) (at_ : Nat) (bs : List Byte) : List Byte :=
  buf.take at_ ++ bs ++ buf.drop (at_ + bs.length)

end Sys2Proof.Machine
end

