-- ==== Sys2Proof/Machine/Crc8.lean ====
section
/-! DEFINITION. The CRC8 engine (40_crc8.md): the table entry in its bitwise form (R126), the table builder of R123, and the fold of R124. -/

namespace Sys2Proof.Machine

/-- R126: one step of the bitwise form, the shift and the conditional XOR with `poly`. -/
def crcShift (poly c : Byte) : Byte :=
  if c &&& 0x80 = 0 then c <<< 1 else (c <<< 1) ^^^ poly

/-- R122: the constant table `CRCTAB`, entry `i` in the bitwise form of R126 (eight steps from `i`). -/
def crcTab (i : Byte) : Byte := Nat.repeat (crcShift Config.poly) 8 i

/-- R123: the passes of `populate` that are left, with the running value `t` and the entries built so far. -/
def populateFrom (poly : Byte) : Nat → Byte → List Byte → List Byte
  | 0, _, tab => tab
  | n + 1, t, tab => populateFrom poly n (crcShift poly t) (tab ++ tab.map (· ^^^ crcShift poly t))

/-- R123: `populate(table, poly)`, eight doubling passes from `table[0] = 0` and `t = 0x80`. -/
def populate (poly : Byte) : List Byte := populateFrom poly 8 0x80 [0]

/-- R124: `compute(data, n, seed)`, each byte folded through the table. -/
def crcCompute (data : List Byte) (seed : Byte) : Byte :=
  data.foldl (fun crc b => crcTab (crc ^^^ b)) seed

/-- R125: `CRC8(bytes)`, with seed 0xFF and no final XOR or reflection. -/
def crc8 (data : List Byte) : Byte := crcCompute data Config.seed

end Sys2Proof.Machine
end

