-- ==== Sys2Proof/WellFormed.lean ====
section
/-! DEFINITION. Which instruction terms stand for an encoding the spec gives: payload and size bounds, the reserved FIFO-op bits, the receive buffer's size. -/

namespace Sys2Proof

/-- R83: bits 7:3 of the FIFO-op byte are 0. -/
def wfFop (fop : Byte) : Bool := fop < 8

/-- R10 and R222: a FIFO chunk holds 1 to 240 bytes. -/
def wfChunk (n : Nat) : Bool := 1 ≤ n && n ≤ Config.chunkMax

/-- A term is well formed when its encoding is one the spec gives: every request register value is legal (R24 to R29);
a register frame carries at most 240 bytes (R10, R95); a FIFO frame 1 to 240 bytes and no reserved FOP bit (R83, R96, R97);
a received frame fits the 248 bytes of RXBUF (R15). -/
def Instr.wf : Instr → Bool
  | .writeRegister _ => true
  | .readRegister _ => true
  | .writeFifo _ => true
  | .readFifo _ => true
  | .setChannelTimeout _ => true
  | .go _ _ => true
  | .cbAck => true
  | .cbAckAbort => true
  | .doneClear => true
  | .write _ _ payload => payload.length ≤ Config.maxPayload
  | .read _ _ size => size.toNat ≤ Config.maxPayload
  | .writeFifoFrame _ fop _ payload => wfFop fop && wfChunk payload.length
  | .readFifoFrame _ fop _ size => wfFop fop && wfChunk size.toNat
  | .ackWrite _ _ _ => true
  | .ackRead _ _ data _ => data.length + 7 ≤ Config.rxbufSize
  | .ackWriteFifo _ _ _ => true
  | .ackReadFifo _ _ data _ rest => data.length + rest.length + 8 ≤ Config.rxbufSize
  | .ackError _ _ rest => rest.length + 6 ≤ Config.rxbufSize

end Sys2Proof
end

