-- ==== Sys2Proof/Decode.lean ====
section
/-! DEFINITION. The decoder, total on any bytes at each of the block's interfaces and rejecting by name, the encoder written from the same tables (30_encoding.md), and the host's table-word decoder. -/

namespace Sys2Proof

open Sys2Proof.Machine

/-- Where an instruction stands (log 3): the request-register block that a GO latches, a CONTROL write, a STATUS write,
a request frame (with or without the hint byte of R92), or a received acknowledgement frame. -/
inductive Port where
  | cmd
  | control
  | status
  | request (tagged : Bool)
  | ack
  deriving DecidableEq, Repr

/-- Why bytes are not an instruction. -/
inductive DecodeError where
  /-- Not the number of bytes an instruction has at this port. -/
  | length
  /-- A CMD.CODE that R81 calls illegal. -/
  | illegalCode
  /-- A reserved bit of the request registers is set (R23, R29: they read 0). -/
  | reservedBits
  /-- A CONTROL write without GO and CB_ACK, or a STATUS write without bit 1: no action (R30, R292, R293). -/
  | noAction
  /-- The frame length byte of a request frame is not the frame's (R89). -/
  | lengthByte
  /-- The CRC byte of a request frame is not the CRC8 of its covered region (R90). -/
  | crcByte
  /-- The opcode byte is no opcode of this port (R84, R85, R86). -/
  | unknownOpcode
  /-- A payload or size outside the bounds (R10, R15), or a reserved FIFO-op bit (R83). -/
  | outOfBounds
  /-- An `ACK_READ_FIFO` whose count leaves no room for its CRC in the received bytes (R173). -/
  | countBeyondFrame
  deriving DecidableEq, Repr

/-- The result of decoding. -/
abbrev Decoded := Except DecodeError Instr

/-! ## Commands and control writes -/

/-- R80 and R81: the command a CMD.CODE names. -/
def commandOf (code : Byte) (req : Request) : Option Instr :=
  if code = 0x01 then some (.writeRegister req)
  else if code = 0x02 then some (.readRegister req)
  else if code = 0x04 then some (.writeFifo req)
  else if code = 0x08 then some (.readFifo req)
  else if code = 0x10 then some (.setChannelTimeout req)
  else none

/-- The little-endian words of a byte sequence (R69); none when a byte is left over. -/
def wordsOf : List Byte → Option (List Word)
  | [] => some []
  | a :: b :: c :: d :: rest => (wordsOf rest).map (s32le a b c d :: ·)
  | _ => none

/-- The request registers as bytes, at offsets 0x00 to 0x1B of the register window (R23 to R29, R69). -/
def requestBlock (code : Byte) (req : Request) : List Byte :=
  le32 (code.setWidth 32) ++ le32 req.addr ++ le32 req.ptr ++ le32 req.size ++ le32 req.timeout ++ le32 req.retries
    ++ le32 (req.flags.setWidth 32)

/-- The command in a block of request registers (R80, R281). -/
def decodeBlock (bs : List Byte) : Decoded :=
  match wordsOf bs with
  | some [cmd, addr, ptr, size, timeout, retries, flags] =>
    if cmd < 256 ∧ flags < 32 then
      match commandOf (cmd.setWidth 8) ⟨addr, ptr, size, timeout, retries, flags.setWidth 5⟩ with
      | some i => .ok i
      | none => .error .illegalCode
    else .error .reservedBits
  | _ => .error .length

/-- A CONTROL write word with the given action bits (R30). -/
def controlWord (go cbAck abort : Bool) : Word :=
  (BitVec.ofBool go).setWidth 32 ||| ((BitVec.ofBool cbAck).setWidth 32 <<< 1) ||| ((BitVec.ofBool abort).setWidth 32 <<< 2)

/-- R30 and R288: the action of a CONTROL write. GO carries the other two bits, since the state decides which is taken. -/
def controlOf (w : Word) : Decoded :=
  if w.getLsbD 0 then .ok (.go (w.getLsbD 1) (w.getLsbD 2))
  else if w.getLsbD 1 then (if w.getLsbD 2 then .ok .cbAckAbort else .ok .cbAck)
  else .error .noAction

/-- R293: the action of a STATUS write. -/
def statusOf (w : Word) : Decoded :=
  if w.getLsbD 1 then .ok .doneClear else .error .noAction

/-! ## Request frames -/

/-- R88 to R90 and R160: a request frame, `L`, opcode, body and CRC8, with the hint byte of R165 in front where there is one. -/
def sealRequest (hint : Option Byte) (opcode : Byte) (body : List Byte) : List Byte :=
  let f := BitVec.ofNat 8 (body.length + 1) :: opcode :: body
  hint.toList ++ f ++ [crc8 f]

/-- R94 to R97: the fields after the opcode byte of a request frame, up to its last payload byte. -/
def decodeBody (hint : Option Byte) (opcode : Byte) (body : List Byte) : Decoded :=
  let checked (i : Instr) : Decoded := if i.wf then .ok i else .error .outOfBounds
  if opcode = 0x01 then
    match body with
    | a0 :: a1 :: a2 :: a3 :: payload => checked (.write hint (s32le a0 a1 a2 a3) payload)
    | _ => .error .length
  else if opcode = 0x02 then
    match body with
    | [a0, a1, a2, a3, size] => checked (.read hint (s32le a0 a1 a2 a3) size)
    | _ => .error .length
  else if opcode = 0x04 then
    match body with
    | fop :: a0 :: a1 :: a2 :: a3 :: payload => checked (.writeFifoFrame hint fop (s32le a0 a1 a2 a3) payload)
    | _ => .error .length
  else if opcode = 0x08 then
    match body with
    | [fop, a0, a1, a2, a3, size] => checked (.readFifoFrame hint fop (s32le a0 a1 a2 a3) size)
    | _ => .error .length
  else .error .unknownOpcode

/-- R88 to R90: a frame from its length byte on: `L` counts the opcode to the last payload byte, and the CRC8 covers all before it. -/
def decodeSealed (hint : Option Byte) (f : List Byte) : Decoded :=
  match f with
  | len :: opcode :: rest =>
    if rest.length = len.toNat then
      if rest.getLast? = some (crc8 (len :: opcode :: rest.dropLast)) then decodeBody hint opcode rest.dropLast
      else .error .crcByte
    else .error .lengthByte
  | _ => .error .length

/-- R92: a ClassTagged request frame begins with its hint byte. -/
def decodeRequest (tagged : Bool) (bs : List Byte) : Decoded :=
  if tagged then
    match bs with
    | hint :: f => decodeSealed (some hint) f
    | [] => .error .length
  else decodeSealed none bs

/-! ## Acknowledgement frames -/

/-- R101: the fields of an `ACK_READ_FIFO` after its status word: the count, that many data bytes, the CRC, and what follows. -/
def decodeCounted (len : Byte) (status : Word) (body : List Byte) : Decoded :=
  match body with
  | count :: f =>
    match f.drop count.toNat with
    | crc :: rest => .ok (.ackReadFifo len status (f.take count.toNat) crc rest)
    | [] => .error .countBeyondFrame
  | [] => .error .length

/-- R98 to R102: the fields of a received frame after its status word. -/
def decodeAckBody (len ack : Byte) (status : Word) (body : List Byte) : Decoded :=
  if ack = 0x81 then
    match body with
    | [crc] => .ok (.ackWrite len status crc)
    | _ => .error .length
  else if ack = 0x82 then
    match body.getLast? with
    | some crc => .ok (.ackRead len status body.dropLast crc)
    | none => .error .length
  else if ack = 0x84 then
    match body with
    | [crc] => .ok (.ackWriteFifo len status crc)
    | _ => .error .length
  else if ack = 0x88 then decodeCounted len status body
  else if ack = 0xC0 then .ok (.ackError len status body)
  else .error .unknownOpcode

/-- R93 and R98 to R102: a received frame as it stands in the receive buffer, right or wrong in its `L` and CRC
(those are the checks of R176, which the machine makes). -/
def decodeAckFrame (bs : List Byte) : Decoded :=
  if bs.length ≤ Config.rxbufSize then
    match bs with
    | len :: ack :: s0 :: s1 :: s2 :: s3 :: body => decodeAckBody len ack (s32le s0 s1 s2 s3) body
    | _ => .error .length
  else .error .outOfBounds

/-! ## The decoder and the encoder -/

/-- The instruction the given bytes are at the given port. -/
def decode : Port → List Byte → Decoded
  | .cmd, bs => decodeBlock bs
  | .control, bs =>
    match wordsOf bs with
    | some [w] => controlOf w
    | _ => .error .length
  | .status, bs =>
    match wordsOf bs with
    | some [w] => statusOf w
    | _ => .error .length
  | .request tagged, bs => decodeRequest tagged bs
  | .ack, bs => decodeAckFrame bs

/-- The port an instruction stands at. -/
def Instr.port : Instr → Port
  | .writeRegister _ => .cmd
  | .readRegister _ => .cmd
  | .writeFifo _ => .cmd
  | .readFifo _ => .cmd
  | .setChannelTimeout _ => .cmd
  | .go _ _ => .control
  | .cbAck => .control
  | .cbAckAbort => .control
  | .doneClear => .status
  | .write hint _ _ => .request hint.isSome
  | .read hint _ _ => .request hint.isSome
  | .writeFifoFrame hint _ _ _ => .request hint.isSome
  | .readFifoFrame hint _ _ _ => .request hint.isSome
  | .ackWrite _ _ _ => .ack
  | .ackRead _ _ _ _ => .ack
  | .ackWriteFifo _ _ _ => .ack
  | .ackReadFifo _ _ _ _ _ => .ack
  | .ackError _ _ _ => .ack

/-- The bytes of an instruction at its port: the register block or the register word, little-endian (R69), or the frame in wire order. -/
def encode : Instr → List Byte
  | .writeRegister req => requestBlock 0x01 req
  | .readRegister req => requestBlock 0x02 req
  | .writeFifo req => requestBlock 0x04 req
  | .readFifo req => requestBlock 0x08 req
  | .setChannelTimeout req => requestBlock 0x10 req
  | .go cbAck abort => le32 (controlWord true cbAck abort)
  | .cbAck => le32 (controlWord false true false)
  | .cbAckAbort => le32 (controlWord false true true)
  | .doneClear => le32 2
  | .write hint addr payload => sealRequest hint 0x01 (le32 addr ++ payload)
  | .read hint addr size => sealRequest hint 0x02 (le32 addr ++ [size])
  | .writeFifoFrame hint fop addr payload => sealRequest hint 0x04 (fop :: le32 addr ++ payload)
  | .readFifoFrame hint fop addr size => sealRequest hint 0x08 (fop :: le32 addr ++ [size])
  | .ackWrite len status crc => [len, 0x81] ++ le32 status ++ [crc]
  | .ackRead len status data crc => [len, 0x82] ++ le32 status ++ data ++ [crc]
  | .ackWriteFifo len status crc => [len, 0x84] ++ le32 status ++ [crc]
  | .ackReadFifo len status data crc rest =>
    [len, 0x88] ++ le32 status ++ [BitVec.ofNat 8 data.length] ++ data ++ [crc] ++ rest
  | .ackError len status rest => [len, 0xC0] ++ le32 status ++ rest

/-! ## The host's table words (log 17) -/

/-- The frame of an acknowledgement whose ack byte is `ack` and whose operand bytes are all 0:
the length byte and the CRC are what the encoding computes from them (R98 to R101). -/
def zeroAck (ack : Byte) : List Byte :=
  let f : List Byte := if ack = 0x88 then [6, ack, 0, 0, 0, 0, 0] else [5, ack, 0, 0, 0, 0]
  f ++ [crc8 f]

/-- The instruction of a decoding, if there is one. -/
def instrOf : Decoded → Option Instr
  | .ok i => some i
  | .error _ => none

/-- The instruction a word of the opcode table stands for (log 17). A word of one byte is read as a CMD.CODE with zero operands;
where that is no command, as an ack byte, then as a CONTROL word, then as a STATUS word.
A longer word is read as a CONTROL word, then as a STATUS word. -/
def decodeTableWord (nbits w : Nat) : Option Instr :=
  let word := le32 (BitVec.ofNat 32 w)
  let host := (instrOf (decode .control word)).or (instrOf (decode .status word))
  if nbits ≤ 8 then
    ((instrOf (decode .cmd (word ++ List.replicate 24 0))).or (instrOf (decode .ack (zeroAck (BitVec.ofNat 8 w))))).or host
  else host

end Sys2Proof
end

