-- ==== Sys2Proof/Machine/Operands.lean ====
section
/-! DEFINITION. The operands the engine computes: the latched request (R281), the hint byte (R92), the chunk size (R221), the FIFO-op byte (R223), and the request frame of a send attempt. -/

namespace Sys2Proof.Machine

/-- R92: `hint_of(T) = min(255, ceil(T / 1000))`. -/
def hintOf (t : Word) : Byte := BitVec.ofNat 8 (min 255 ((t.toNat + 999) / 1000))

/-- R281: the request as an accepted GO latches it. -/
def latch (code : Byte) (req : Request) : Latched :=
  { code := code, addr := req.addr, ptr := req.ptr, size := req.size,
    T := if req.timeout = 0 then Config.defaultTimeoutMs else req.timeout,
    noerr := req.retries.msb,
    R := if req.retries = 0 then Config.defaultMaxRetries else req.retries,
    start := req.flags.getLsbD 0, endf := req.flags.getLsbD 1, retryEn := req.flags.getLsbD 2,
    cbEn := req.flags.getLsbD 3, tagged := req.flags.getLsbD 4, rawT := req.timeout }

/-- R281: the request the host registers hold. -/
def requestOf (s : State) : Request :=
  { addr := s.addr, ptr := s.dataPtr, size := s.dataSize, timeout := s.timeoutMs, retries := s.maxRetries, flags := s.flags }

/-- R80: the running command is a FIFO command. -/
def isFifo (code : Byte) : Bool := code == 0x04 || code == 0x08

/-- R283: checks 2 and 3, a null buffer or one that wraps the address space. -/
def badBuffer (req : Request) : Bool :=
  (decide (0 < req.size) && decide (req.ptr = 0)) || decide (4294967296 < req.ptr.toNat + req.size.toNat)

/-- R284: check 4, a register request over the payload bound. -/
def oversized (req : Request) : Bool := decide (Config.maxPayload < req.size.toNat)

/-- R19: `floor4(n)`. -/
def floor4 (n : Nat) : Nat := n - n % 4

/-- R221: the size of the next chunk. -/
def chunkSize (remaining : Word) : Nat :=
  if remaining.toNat ≤ Config.chunkMax then remaining.toNat else floor4 Config.chunkMax

/-- R223: the FIFO-op byte of a send attempt. -/
def fop (s : State) : Byte :=
  (BitVec.ofBool (s.c.first && s.q.start)).setWidth 8
    ||| ((BitVec.ofBool (s.k.final && s.q.endf)).setWidth 8 <<< 1)
    ||| ((BitVec.ofBool (s.k.resend && s.q.retryEn)).setWidth 8 <<< 2)

/-- R92 and R165: the hint byte of the running command's request frames. -/
def hintByte (q : Latched) : Option Byte := if q.tagged then some (hintOf q.T) else none

/-- R88: `h`, the offset of the frame length byte. -/
def hintLen (q : Latched) : Nat := if q.tagged then 1 else 0

/-- R96: where the payload of a `WRITE_FIFO` frame stands in `TXBUF`. -/
def payloadAt (q : Latched) : Nat := hintLen q + 7

/-- R225: the payload bytes that the chunk's start put into `TXBUF`. -/
def chunkPayload (s : State) : List Byte := (s.txbuf.drop (payloadAt s.q)).take s.k.size

/-- R63: the buffer address of the current chunk. -/
def chunkAddr (s : State) : Word := s.q.ptr + s.c.offset

/-- R20: the frame in the send buffer, `TXBUF[0 .. TXLEN-1]`. -/
def txFrame (s : State) : List Byte := s.txbuf.take s.txlen

/-- The request frame the engine is about to send in SEND: for a FIFO chunk the frame of R225 with the current FOP,
for a register command what `TXBUF` holds (R193). -/
def sendInstr (s : State) : Option Instr :=
  if s.q.code = 0x04 then some (.writeFifoFrame (hintByte s.q) (fop s) s.q.addr (chunkPayload s))
  else if s.q.code = 0x08 then some (.readFifoFrame (hintByte s.q) (fop s) s.q.addr (BitVec.ofNat 8 s.k.size))
  else instrOf (decode (.request s.q.tagged) (txFrame s))

/-- R101: the covered length of an `ACK_READ_FIFO` with count `count` in `rxn` received bytes (R17 (c)). -/
def fifoAckCov (count rxn : Nat) : Nat :=
  match Config.fifoAckCrcAt with
  | .afterCount => 7 + count
  | .endOfFrame => rxn - 1

end Sys2Proof.Machine
end

