-- ==== Sys2Proof/Machine/Ops.lean ====
section
/-! DEFINITION. The shared operations of the engine: a command's acceptance and its one exit `finish` (the block's analogue of an exception entry, R300, R306) with the return from the chunk callback beside it (R311), the retry policy, the exchange of a register command, the chunks of a stream, and the transport's responses. -/

namespace Sys2Proof.Machine

/-! ## Completion -/

/-- R306: what every end of a command does, the result and the completion flag. -/
def complete (st : Word) (s : State) : State :=
  { s with result := st, chunkPending := false, busy := false, done := true, engine := .idle }

/-- R306: `finish(st)`; a `READ_FIFO` writes its byte count back into `DATA_SIZE` (R240). -/
def finish (st : Word) (s : State) : State :=
  complete st { s with dataSize := if s.q.code = 0x08 then s.bytesDone else s.dataSize }

/-- R198: the result of a phase that ran out of its budget. -/
def exhausted (s : State) : Word := if s.ls.valid then s.ls.value else Config.errInternal

/-! ## The retry policy -/

/-- R262 to R264: a phase record after one failed attempt at time `now`. -/
def chargePhase (now T : Word) (ph : Phase) : Phase :=
  if ph.armed then
    if T < now - ph.t0 then
      { slots := ph.slots + 1, armed := decide (Config.slotTimestampReset = .now), t0 := now }
    else ph
  else { ph with armed := true, t0 := now }

/-- R262: the phase must abort. -/
def phaseOver (R : Word) (ph : Phase) : Bool := decide (R ≤ ph.slots)

/-- R44: a fresh phase record. -/
def freshPhase (ph : Phase) : Phase := { ph with slots := 0, armed := false }

/-- R195, R196, R227: after a failure charged to `ph`, the command ends with `exhausted()` or goes back to `back`. -/
def retryOrFinish (ph : Phase) (back : EngineState) (s : State) : State :=
  if phaseOver s.q.R ph then finish (exhausted s) s else { s with engine := back }

/-- Where a failed await-ack attempt goes back to (R17 (a), (b)). -/
def ackRetryState : Config.AckRetry → EngineState
  | .receiveAgain => .recv
  | .sendAgain => .send

/-! ## Transport requests -/

/-- R160: a frame put into the send buffer. -/
def loadFrame (f : List Byte) (s : State) : State :=
  { s with txbuf := overwrite s.txbuf 0 f, txlen := f.length }

/-- R141, R193: the send attempt of what `TXBUF` holds. -/
def issueSend (s : State) : State :=
  { s with outstanding := some (.send (txFrame s) s.txlen s.q.T), engine := .sendWait }

/-- R142, R196, R228: the receive attempt. -/
def issueRecv (s : State) : State :=
  { s with outstanding := some (.recv s.rxn s.q.T), engine := .recvWait }

/-- R145, R289: the set-timeout request. -/
def issueSetTimeout (s : State) : State :=
  { s with outstanding := some (.setTimeout s.q.rawT), engine := .ctlWait }

/-- R193, R225: the send attempt of the frame `f`, which the engine makes in SEND only (R146, log 15). -/
def sendFrame (f : List Byte) (s : State) : Res State :=
  if s.engine = .send then .next (issueSend (loadFrame f s)) else .refused .noSendStep

/-! ## The exchange of a register command -/

/-- R192: `start_exchange()`, after the frame is loaded, with the acknowledgement it waits for. -/
def startExchange (rxn : Nat) (expack : Byte) (s : State) : State :=
  { s with rxn := rxn, expack := expack, ps := freshPhase s.ps, pa := freshPhase s.pa,
           ls := { s.ls with valid := false }, engine := .send }

/-- R199: no-error mode ends a register command at its first failure (R17 (e)). -/
def regNoError (s : State) : Bool := s.q.noerr && Config.regNoErrorHonoured

/-- R195: a failed send of a register command. -/
def regSendFailure (s : State) : State :=
  if regNoError s then finish 0 s
  else
    let ph := chargePhase s.timeMs s.q.T s.ps
    retryOrFinish ph .send { s with ps := ph }

/-- R196: a failed await-ack attempt of a register command. -/
def regAckFailure (s : State) : State :=
  if regNoError s then finish 0 s
  else
    let ph := chargePhase s.timeMs s.q.T s.pa
    retryOrFinish ph (ackRetryState Config.regAckRetry) { s with pa := ph }

/-- R197: an accepted acknowledgement of a register command. -/
def regAccept (st : Word) (s : State) : Res State :=
  andThen (if s.q.code = 0x02 then writeBytes s.q.ptr ((s.rxbuf.drop 6).take s.q.size.toNat) s else .next s) fun s' =>
    .next (finish st { s' with bytesDone := s'.q.size })

/-! ## The chunks of a stream -/

/-- R222: the chunk record, the fresh phase records and the acknowledgement of a new chunk; the payload stands in `TXBUF`. -/
def openChunk (p : Nat) (rxn : Nat) (expack : Byte) (s : State) : State :=
  startExchange rxn expack { s with k := { size := p, final := decide (p = s.c.remaining.toNat), resend := false } }

/-- R222: `start_chunk()`. -/
def startChunk (s : State) : Res State :=
  let p := chunkSize s.c.remaining
  if s.q.code = 0x04 then
    andThen (readBytes s (chunkAddr s) p) fun bs =>
      .next (openChunk p 7 0x84 { s with txbuf := overwrite s.txbuf (payloadAt s.q) bs })
  else .next (openChunk p (p + 8) 0x88 s)

/-- R242: `start_stream()`. -/
def startStream (s : State) : Res State :=
  if s.q.size = 0 then .next (finish 0 s)
  else startChunk { s with c := { remaining := s.q.size, offset := 0, first := true } }

/-- R239: `continue_stream(abort)`. -/
def continueStream (abort : Bool) (s : State) : Res State :=
  if s.e.pending then .next (finish s.e.status s)
  else if abort then .next (finish Config.errAborted s)
  else startChunk s

/-- R227: a failed send of a chunk. -/
def fifoSendFailure (s : State) : State :=
  if s.q.noerr then finish 0 s
  else
    let ph := chargePhase s.timeMs s.q.T s.ps
    retryOrFinish ph .send { s with ps := ph, k := { s.k with resend := true } }

/-- R227, R229: a failed await-ack attempt of a chunk. -/
def fifoAckFailure (s : State) : State :=
  if s.q.noerr then finish 0 s
  else
    let ph := chargePhase s.timeMs s.q.T s.pa
    retryOrFinish ph (ackRetryState Config.fifoAckRetry) { s with pa := ph, k := { s.k with resend := true } }

/-- R235 and R236: the cursor advanced by `a` bytes, the progress registers, and the pending end for status `st`. -/
def advance (st : Word) (a : Nat) (s : State) : State :=
  let offset := s.c.offset + BitVec.ofNat 32 a
  let remaining := s.c.remaining - BitVec.ofNat 32 a
  { s with c := { remaining := remaining, offset := offset, first := false }, bytesDone := offset, chunks := s.chunks + 1,
           e := { pending := decide (remaining = 0) || BitVec.slt 0 st, status := st } }

/-- R232: an accepted `READ_FIFO` answer that ends the stream. -/
def readStops (st : Word) (a : Nat) (s : State) : Bool :=
  s.q.code == 0x08 && (st == Config.fifoEmptyStatus || a == 0)

/-- R231: `chunk_ok(st, A)`. -/
def chunkOk (st : Word) (a : Nat) (s : State) : Res State :=
  if readStops st a s then .next (finish 0 s)
  else
    andThen (if s.q.code = 0x08 then writeBytes (chunkAddr s) ((s.rxbuf.drop 7).take a) s else .next s) fun s' =>
      if s'.q.cbEn then .next { advance st a s' with chunkPending := true, engine := .cbWait }
      else continueStream false (advance st a s')

/-- R291: the return from the chunk callback, taken only in CB_WAIT (R292). -/
def callbackReturn (abort : Bool) (s : State) : Res State :=
  if s.engine = .cbWait then continueStream abort { s with chunkPending := false } else .next s

/-! ## Decoding an acknowledgement -/

/-- R169: the outcomes of one await-ack attempt. -/
inductive AckOutcome where
  | tfail
  | ffail
  | devErr (st : Word)
  | ok (st : Word)
  deriving DecidableEq, Repr

/-- R176: the covered length of the frame in `RXBUF`; none when an `ACK_READ_FIFO` counts more bytes than were asked for (R173). -/
def coveredLength (s : State) : Option Nat :=
  if s.expack = 0x88 then
    let a := (byteAt s.rxbuf 6).toNat
    if s.k.size < a then none else some (fifoAckCov a s.rxn)
  else some (s.rxn - 1)

/-- R174: the status word of the frame in `RXBUF`. -/
def ackStatus (f : List Byte) : Word := s32le (byteAt f 2) (byteAt f 3) (byteAt f 4) (byteAt f 5)

/-- R176: `decode(r)`, the three checks and the status. -/
def decodeAck (r : Word) (s : State) : AckOutcome :=
  if r.toInt ≠ s.rxn then .tfail
  else
    match coveredLength s with
    | none => .ffail
    | some cov =>
      if byteAt s.rxbuf 0 = 0 then .ffail
      else if crc8 (s.rxbuf.take cov) ≠ byteAt s.rxbuf cov then .ffail
      else if byteAt s.rxbuf 1 ≠ s.expack then .ffail
      else if (ackStatus s.rxbuf).msb then .devErr (ackStatus s.rxbuf)
      else .ok (ackStatus s.rxbuf)

/-! ## Responses of the transport -/

/-- R195 and R227: a failed send. -/
def sendFailure (s : State) : State := if isFifo s.q.code then fifoSendFailure s else regSendFailure s

/-- R196 and R227: a failed await-ack attempt. -/
def ackFailure (s : State) : State := if isFifo s.q.code then fifoAckFailure s else regAckFailure s

/-- R197 and R228: an accepted acknowledgement. An `ACK_WRITE_FIFO` carries no count, so its whole chunk counts as moved. -/
def ackAccept (st : Word) (s : State) : Res State :=
  if s.q.code = 0x04 then chunkOk st s.k.size s
  else if s.q.code = 0x08 then chunkOk st (byteAt s.rxbuf 6).toNat s
  else regAccept st s

/-- R196 and R228: what the engine does with the outcome of an await-ack attempt. -/
def onAck (o : AckOutcome) (s : State) : Res State :=
  match o with
  | .ok st => ackAccept st s
  | .devErr st => .next (ackFailure { s with ls := { valid := true, value := st } })
  | .tfail => .next (ackFailure s)
  | .ffail => .next (ackFailure s)

/-- R142 and R144: the response taken; `RXBUF` gets the bytes only when the count is the one asked for. -/
def takeResponse (r : Word) (d : List Byte) (s : State) : State :=
  { s with outstanding := none, rxbuf := if r.toInt = s.rxn then overwrite s.rxbuf 0 d else s.rxbuf }

/-- R196 and R228: RECV_WAIT on the response `(r, d)`. A full count comes with that many bytes (R142, log 10).
In any other engine state no receive is outstanding and the bytes are discarded (R312, R342, log 4). -/
def recvResponse (r : Word) (d : List Byte) (s : State) : Res State :=
  if s.engine = .recvWait then
    if r.toInt = s.rxn ∧ d.length ≠ s.rxn then .refused .responseBytesMissing
    else onAck (decodeAck r (takeResponse r d s)) (takeResponse r d s)
  else .next s

/-- A whole frame received: its length is the count the transport reports. -/
def recvFrame (f : List Byte) (s : State) : Res State := recvResponse (BitVec.ofNat 32 f.length) f s

/-- R194 and R226: SEND_WAIT on the response `r`. -/
def sendResponse (r : Word) (s : State) : State :=
  if r.toInt = s.txlen then { s with outstanding := none, engine := .recv } else sendFailure { s with outstanding := none }

/-- R289: CTL_WAIT on the response `r`. -/
def ctlResponse (r : Word) (s : State) : State :=
  finish r { s with outstanding := none, chanTimeout := if r.msb then s.chanTimeout else s.q.rawT }

/-! ## Accepting a command -/

/-- R281: what an accepted GO does before the checks. -/
def acceptGo (code : Byte) (req : Request) (s : State) : State :=
  { s with q := latch code req, done := false, bytesDone := 0, chunks := 0, e := { s.e with pending := false }, busy := true }

/-- R281 to R287: a command `code` with the request `req`: ignored while BUSY; refused with `ERR_INVALID` in the same step when a check
fails (`bad`), with no `DATA_SIZE` write (R285); else started. -/
def runCommand (code : Byte) (req : Request) (bad : Bool) (start : State → Res State) (s : State) : Res State :=
  if s.busy then .next s
  else if bad then .next (complete Config.errInvalid (acceptGo code req s))
  else start (acceptGo code req s)

end Sys2Proof.Machine
end

