-- ==== Sys2Proof/Machine/AckFrames.lean ====
section
/-! DEFINITION. The five acknowledgement frames: each is the answer to the outstanding receive, decoded and acted on (R168 to R179, R196 to R199, R227 to R241). -/

namespace Sys2Proof.Machine

/-- `ACK_WRITE` (R170). -/
def execAckWrite (len : Byte) (status : Word) (crc : Byte) (s : State) : Res State :=
  recvFrame (encode (.ackWrite len status crc)) s

/-- `ACK_READ` (R171). -/
def execAckRead (len : Byte) (status : Word) (data : List Byte) (crc : Byte) (s : State) : Res State :=
  recvFrame (encode (.ackRead len status data crc)) s

/-- `ACK_WRITE_FIFO` (R172). -/
def execAckWriteFifo (len : Byte) (status : Word) (crc : Byte) (s : State) : Res State :=
  recvFrame (encode (.ackWriteFifo len status crc)) s

/-- `ACK_READ_FIFO` (R173). -/
def execAckReadFifo (len : Byte) (status : Word) (data : List Byte) (crc : Byte) (rest : List Byte) (s : State) : Res State :=
  recvFrame (encode (.ackReadFifo len status data crc rest)) s

/-- `ACK_ERROR` (R179): never accepted, since its ack byte is never the expected one. -/
def execAckError (len : Byte) (status : Word) (rest : List Byte) (s : State) : Res State :=
  recvFrame (encode (.ackError len status rest)) s

end Sys2Proof.Machine
end

