-- ==== Sys2Proof/Machine/Commands.lean ====
section
/-! DEFINITION. The five host commands (R80): an accepted GO with the command's request, its checks, and its start. -/

namespace Sys2Proof.Machine

/-- R190: the start of a `WRITE_REGISTER`: the buffer read into a `WRITE` frame. -/
def startWriteRegister (s : State) : Res State :=
  andThen (readBytes s s.q.ptr s.q.size.toNat) fun bs =>
    .next (startExchange 7 0x81 (loadFrame (encode (.write (hintByte s.q) s.q.addr bs)) s))

/-- R191: the start of a `READ_REGISTER`. -/
def startReadRegister (s : State) : Res State :=
  .next (startExchange (s.q.size.toNat + 7) 0x82
    (loadFrame (encode (.read (hintByte s.q) s.q.addr (s.q.size.setWidth 8))) s))

/-- R289: the start of a `SET_CHANNEL_TIMEOUT`. -/
def startSetChannelTimeout (s : State) : Res State := .next (issueSetTimeout s)

/-- `WRITE_REGISTER` (R190, checks 2 to 4). -/
def execWriteRegister (req : Request) (s : State) : Res State :=
  runCommand 0x01 req (badBuffer req || oversized req) startWriteRegister s

/-- `READ_REGISTER` (R191, checks 2 to 4). -/
def execReadRegister (req : Request) (s : State) : Res State :=
  runCommand 0x02 req (badBuffer req || oversized req) startReadRegister s

/-- `WRITE_FIFO` (R220, checks 2 and 3). -/
def execWriteFifo (req : Request) (s : State) : Res State :=
  runCommand 0x04 req (badBuffer req) startStream s

/-- `READ_FIFO` (R224, checks 2 and 3). -/
def execReadFifo (req : Request) (s : State) : Res State :=
  runCommand 0x08 req (badBuffer req) startStream s

/-- `SET_CHANNEL_TIMEOUT` (R289, no check). -/
def execSetChannelTimeout (req : Request) (s : State) : Res State :=
  runCommand 0x10 req false startSetChannelTimeout s

end Sys2Proof.Machine
end

