-- ==== Sys2Proof/Machine/Control.lean ====
section
/-! DEFINITION. The control writes: GO, the callback's return with and without ABORT, and the clearing of DONE (46_host_control.md). -/

namespace Sys2Proof.Machine

/-- R282 and R286: the command a GO starts, by the CODE the host wrote; an illegal code is refused with `ERR_INVALID` (check 1). -/
def dispatchCommand (code : Byte) (req : Request) (s : State) : Res State :=
  if code = 0x01 then execWriteRegister req s
  else if code = 0x02 then execReadRegister req s
  else if code = 0x04 then execWriteFifo req s
  else if code = 0x08 then execReadFifo req s
  else if code = 0x10 then execSetChannelTimeout req s
  else runCommand code req true Host.Outcome.next s

/-- `GO` (R281, R287, R288): with BUSY clear the command starts and CB_ACK is ignored;
with BUSY set GO is ignored and a CB_ACK written with it is taken in CB_WAIT. -/
def execGo (cbAck abort : Bool) (s : State) : Res State :=
  if s.busy then (if cbAck then callbackReturn abort s else .next s)
  else dispatchCommand s.cmd (requestOf s) s

/-- `CB_ACK` (R291, R292). -/
def execCbAck (s : State) : Res State := callbackReturn false s

/-- `CB_ACK_ABORT` (R238, R291). -/
def execCbAckAbort (s : State) : Res State := callbackReturn true s

/-- `DONE_CLEAR` (R293). -/
def execDoneClear (s : State) : Res State := .next { s with done := false }

end Sys2Proof.Machine
end

