-- ==== Sys2Proof/Machine/RequestFrames.lean ====
section
/-! DEFINITION. The four request frames: each is encoded into the send buffer and sent (R160 to R166, R193, R225). -/

namespace Sys2Proof.Machine

/-- `WRITE` (R161). -/
def execWrite (hint : Option Byte) (addr : Word) (payload : List Byte) (s : State) : Res State :=
  sendFrame (encode (.write hint addr payload)) s

/-- `READ` (R162). -/
def execRead (hint : Option Byte) (addr : Word) (size : Byte) (s : State) : Res State :=
  sendFrame (encode (.read hint addr size)) s

/-- `WRITE_FIFO` frame (R163). -/
def execWriteFifoFrame (hint : Option Byte) (fop : Byte) (addr : Word) (payload : List Byte) (s : State) : Res State :=
  sendFrame (encode (.writeFifoFrame hint fop addr payload)) s

/-- `READ_FIFO` frame (R164). -/
def execReadFifoFrame (hint : Option Byte) (fop : Byte) (addr : Word) (size : Byte) (s : State) : Res State :=
  sendFrame (encode (.readFifoFrame hint fop addr size)) s

end Sys2Proof.Machine
end

