-- ==== Sys2Proof/Machine/Dispatch.lean ====
section
/-! DEFINITION. One arm per instruction, each one call of its meaning. -/

namespace Sys2Proof.Machine

/-- The effect of an instruction on the state. -/
def exec (i : Instr) (s : State) : Host.Outcome State Fault Refusal :=
  match i with
  -- host commands
  | .writeRegister req => Sys2Proof.Machine.execWriteRegister req s
  | .readRegister req => Sys2Proof.Machine.execReadRegister req s
  | .writeFifo req => Sys2Proof.Machine.execWriteFifo req s
  | .readFifo req => Sys2Proof.Machine.execReadFifo req s
  | .setChannelTimeout req => Sys2Proof.Machine.execSetChannelTimeout req s
  -- control writes
  | .go cbAck abort => Sys2Proof.Machine.execGo cbAck abort s
  | .cbAck => Sys2Proof.Machine.execCbAck s
  | .cbAckAbort => Sys2Proof.Machine.execCbAckAbort s
  | .doneClear => Sys2Proof.Machine.execDoneClear s
  -- request frames
  | .write hint addr payload => Sys2Proof.Machine.execWrite hint addr payload s
  | .read hint addr size => Sys2Proof.Machine.execRead hint addr size s
  | .writeFifoFrame hint fop addr payload => Sys2Proof.Machine.execWriteFifoFrame hint fop addr payload s
  | .readFifoFrame hint fop addr size => Sys2Proof.Machine.execReadFifoFrame hint fop addr size s
  -- acknowledgement frames
  | .ackWrite len status crc => Sys2Proof.Machine.execAckWrite len status crc s
  | .ackRead len status data crc => Sys2Proof.Machine.execAckRead len status data crc s
  | .ackWriteFifo len status crc => Sys2Proof.Machine.execAckWriteFifo len status crc s
  | .ackReadFifo len status data crc rest => Sys2Proof.Machine.execAckReadFifo len status data crc rest s
  | .ackError len status rest => Sys2Proof.Machine.execAckError len status rest s

end Sys2Proof.Machine
end

