-- ==== Sys2Proof/Machine/Flags.lean ====
section
/-! DEFINITION. The block's only flags: the STATUS register and the interrupt output (R31, R40, R49, R50). -/

namespace Sys2Proof.Machine

/-- R40: the code `STATUS.STATE` shows. -/
def engineCode : EngineState → BitVec 4
  | .idle => 0
  | .send => 1
  | .sendWait => 2
  | .recv => 3
  | .recvWait => 4
  | .cbWait => 5
  | .ctlWait => 6

/-- R31: the word a read of STATUS returns. -/
def statusWord (s : State) : Word :=
  (BitVec.ofBool s.busy).setWidth 32 ||| ((BitVec.ofBool s.done).setWidth 32 <<< 1)
    ||| ((BitVec.ofBool s.chunkPending).setWidth 32 <<< 2) ||| ((engineCode s.engine).setWidth 32 <<< 4)

/-- R49: the interrupt output, a level. -/
def irq (s : State) : Bool := (s.done && s.irqEn.getLsbD 0) || (s.chunkPending && s.irqEn.getLsbD 1)

/-- R37: the constant INFO. -/
def infoWord : Word :=
  Config.poly.setWidth 32 ||| (Config.seed.setWidth 32 <<< 8) ||| (BitVec.ofNat 32 Config.maxPayload <<< 16)
    ||| (Config.revision.setWidth 32 <<< 24)

end Sys2Proof.Machine
end

