-- ==== Sys2Proof/Machine/Environment.lean ====
section
/-! DEFINITION. The moves that run no instruction of the table: register accesses (R22 to R39), the host's accesses to its buffer (R77), the transport's responses, the engine's receive step, and reset (R340). -/

namespace Sys2Proof.Machine

/-! ## The register window -/

/-- The offset of CONTROL (R30). -/
def controlOffset : Nat := 0x1C

/-- The offset of STATUS (R31). -/
def statusOffset : Nat := 0x20

/-- R22, R73: an access the block admits, 32 bits wide at a multiple of 4 inside the window. -/
def admitted (width offset : Nat) : Bool := width == 32 && offset % 4 == 0 && decide (offset < 64)

/-- R23 to R38: the word a read at `offset` returns. -/
def readReg (offset : Nat) (s : State) : Word :=
  if offset = 0x00 then s.cmd.setWidth 32
  else if offset = 0x04 then s.addr
  else if offset = 0x08 then s.dataPtr
  else if offset = 0x0C then s.dataSize
  else if offset = 0x10 then s.timeoutMs
  else if offset = 0x14 then s.maxRetries
  else if offset = 0x18 then s.flags.setWidth 32
  else if offset = 0x20 then statusWord s
  else if offset = 0x24 then s.result
  else if offset = 0x28 then s.bytesDone
  else if offset = 0x2C then s.irqEn.setWidth 32
  else if offset = 0x30 then s.chanTimeout
  else if offset = 0x34 then s.chunks
  else if offset = 0x38 then infoWord
  else 0

/-- R23 to R39: a register write that is no action. IRQ_EN takes writes at any time (R34), the request registers only while BUSY is clear (R39);
every other register is read-only or reserved (R32, R33, R35 to R38), and a CONTROL or STATUS write without an action bit does nothing (R30, R293). -/
def writeReg (offset : Nat) (v : Word) (s : State) : State :=
  if offset = 0x2C then { s with irqEn := v.setWidth 2 }
  else if s.busy then s
  else if offset = 0x00 then { s with cmd := v.setWidth 8 }
  else if offset = 0x04 then { s with addr := v }
  else if offset = 0x08 then { s with dataPtr := v }
  else if offset = 0x0C then { s with dataSize := v }
  else if offset = 0x10 then { s with timeoutMs := v }
  else if offset = 0x14 then { s with maxRetries := v }
  else if offset = 0x18 then { s with flags := v.setWidth 5 }
  else s

/-! ## The host's buffer -/

/-- R60: the byte at `a` lies in the running command's buffer (`SET_CHANNEL_TIMEOUT` has none, R61, log 14). -/
def inRunningBuffer (s : State) (a : Word) : Bool :=
  s.busy && s.q.code != 0x10 && decide (s.q.ptr.toNat ≤ a.toNat) && decide (a.toNat < s.q.ptr.toNat + s.q.size.toNat)

/-- R77: the byte at `a` is one the host may read: below `BYTES_DONE` while CHUNK_PENDING, or outside the running command's buffer. -/
def mayLoad (s : State) (a : Word) : Bool :=
  !inRunningBuffer s a || (s.chunkPending && decide (a.toNat < s.q.ptr.toNat + s.bytesDone.toNat))

/-- R77, R350: the host stores a byte; not into the running command's buffer (I9). -/
def hostStore (a : Word) (v : Byte) (s : State) : Res State :=
  if inRunningBuffer s a then .refused (.hostStoreWhileBusy a) else memWrite a v s

/-- R77: the host loads a byte; outside the window of R77 the value is free (I10, log 14). -/
def hostLoad (a : Word) (s : State) : Res State :=
  andThen (memRead s a) fun v =>
    if mayLoad s a then .next { s with bufData := v }
    else .next { s with bufData := (Config.freeWord s.freeCount 0).setWidth 8, freeCount := s.freeCount + 1 }

/-! ## Reset -/

/-- The free bits a reset leaves in the hidden records (I1, log 9), by slot number. -/
def freeBit (s : State) (slot : Nat) : Bool := (Config.freeWord s.freeCount slot).getLsbD 0

/-- The free byte of a slot. -/
def freeByte (s : State) (slot : Nat) : Byte := (Config.freeWord s.freeCount slot).setWidth 8

/-- The free number below `bound` of a slot. -/
def freeBelow (s : State) (slot bound : Nat) : Nat := (Config.freeWord s.freeCount slot).toNat % bound

/-- A free latched request. -/
def freeLatched (s : State) : Latched :=
  { code := freeByte s 0, addr := Config.freeWord s.freeCount 1, ptr := Config.freeWord s.freeCount 2,
    size := Config.freeWord s.freeCount 3, T := Config.freeWord s.freeCount 4, noerr := freeBit s 5,
    R := Config.freeWord s.freeCount 6, start := freeBit s 7, endf := freeBit s 8, retryEn := freeBit s 9,
    cbEn := freeBit s 10, tagged := freeBit s 11, rawT := Config.freeWord s.freeCount 12 }

/-- A free phase record, its slots from `slot` on. -/
def freePhase (s : State) (slot : Nat) : Phase :=
  { slots := Config.freeWord s.freeCount slot, armed := freeBit s (slot + 1), t0 := Config.freeWord s.freeCount (slot + 2) }

/-- R340 to R343: reset. The registers and the engine state are those of `State.reset`, an outstanding request is abandoned,
the hidden records become unspecified (free values within the ranges of R43 and R47), and BUFMEM, its backing, `TIME_MS`,
the agents' moves and what the host last read are not the block's to change. -/
def resetBlock (s : State) : State :=
  { State.reset with
    q := freeLatched s
    c := { remaining := Config.freeWord s.freeCount 13, offset := Config.freeWord s.freeCount 14, first := freeBit s 15 }
    k := { size := freeBelow s 16 241, final := freeBit s 17, resend := freeBit s 18 }
    ps := freePhase s 19
    pa := freePhase s 22
    ls := { valid := freeBit s 25, value := Config.freeWord s.freeCount 26 }
    e := { pending := freeBit s 27, status := Config.freeWord s.freeCount 28 }
    txbuf := (List.range Config.txbufSize).map fun j => freeByte s (100 + j)
    txlen := freeBelow s 29 250
    rxbuf := (List.range Config.rxbufSize).map fun j => freeByte s (400 + j)
    rxn := freeBelow s 30 249
    expack := freeByte s 31
    timeMs := s.timeMs
    bufmem := s.bufmem
    backed := s.backed
    env := s.env
    portData := s.portData
    bufData := s.bufData
    freeCount := s.freeCount + 1 }

/-! ## The moves -/

/-- The engine's turn where it runs no instruction: the send of what `TXBUF` holds when that is no frame, the receive step (R196, R228),
and nothing in the states that wait for another agent (R354). -/
def engineTurn (s : State) : State :=
  match s.engine with
  | .send => issueSend s
  | .recv => issueRecv s
  | .idle => s
  | .sendWait => s
  | .recvWait => s
  | .cbWait => s
  | .ctlWait => s

/-- A response of the transport, taken in the wait state it belongs to (R140, R312); with no request outstanding it is discarded (R342). -/
def response (r : Word) (d : List Byte) (s : State) : Res State :=
  match s.engine with
  | .sendWait => .next (sendResponse r s)
  | .recvWait => recvResponse r d s
  | .ctlWait => .next (ctlResponse r s)
  | .idle => .next s
  | .send => .next s
  | .recv => .next s
  | .cbWait => .next s

/-- A move that runs no instruction of the table. -/
def otherMove (m : Move) (s : State) : Res State :=
  match m with
  | .engine => .next (engineTurn s)
  | .hostWrite width offset v =>
    if admitted width offset then .next (writeReg offset v s) else .refused (.hostAccessNotAdmitted width offset)
  | .hostRead width offset =>
    if admitted width offset then .next { s with portData := readReg offset s } else .refused (.hostAccessNotAdmitted width offset)
  | .response r d => response r d s
  | .lateResponse _ _ => .next s
  | .time ms => .next { s with timeMs := s.timeMs + BitVec.ofNat 32 ms }
  | .bufStore a v => hostStore a v s
  | .bufLoad a => hostLoad a s
  | .rst => .next (resetBlock s)

end Sys2Proof.Machine
end

