-- ==== Sys2Proof/Machine/Fetch.lean ====
section
/-! DEFINITION. Which move comes next, which instruction it brings (the block fetches no code, R79: an instruction comes from a register write, from the send buffer, or from the transport), and where the host's table word is put. -/

namespace Sys2Proof.Machine

/-- The move that comes next: the first of the agents' moves, or the engine's own turn when no other agent moves (R354, log 2). -/
def nextMove (s : State) : Move :=
  match s.env with
  | [] => .engine
  | m :: _ => m

/-- The state with the next move taken off the list. -/
def popMove (s : State) : State := { s with env := s.env.tail }

/-- The instruction the next move brings, if it brings one: an action in a CONTROL or STATUS write (R30, R293), the frame the engine sends
in SEND (R193, R225), or the acknowledgement frame received in RECV_WAIT (R196, R228). -/
def fetch (s : State) : Option Instr :=
  match nextMove s with
  | .hostWrite width offset v =>
    if width = 32 ∧ offset = controlOffset then instrOf (decode .control (le32 v))
    else if width = 32 ∧ offset = statusOffset then instrOf (decode .status (le32 v))
    else none
  | .engine => if s.engine = .send then sendInstr s else none
  | .response r d =>
    if s.engine = .recvWait ∧ r.toInt = s.rxn ∧ d.length = s.rxn then instrOf (decode .ack d) else none
  | .hostRead _ _ => none
  | .lateResponse _ _ => none
  | .time _ => none
  | .bufStore _ _ => none
  | .bufLoad _ => none
  | .rst => none

/-- The state in which the next move is a GO of the command `code` with the request `req`, with the engine idle (log 18). -/
def placeCommand (code : Byte) (req : Request) (s : State) : State :=
  { s with
    cmd := code, addr := req.addr, dataPtr := req.ptr, dataSize := req.size, timeoutMs := req.timeout
    maxRetries := req.retries, flags := req.flags
    busy := false, engine := .idle, outstanding := none
    env := .hostWrite 32 controlOffset 1 :: s.env }

/-- The state in which the next move is the transport's answer with the frame `f`, a receive of that length being outstanding (log 18). -/
def placeAck (f : List Byte) (s : State) : State :=
  { s with
    busy := true, engine := .recvWait, rxn := f.length
    outstanding := some (.recv f.length s.q.T)
    env := .response (BitVec.ofNat 32 f.length) f :: s.env }

/-- The state in which the next step runs the instruction a table word stands for (log 18).
No table word stands for a request frame (log 17); a word that is no instruction is put into CMD as an illegal code and started. -/
def placeWord (i : Option Instr) (w : Nat) (s : State) : State :=
  match i with
  | none => placeCommand (BitVec.ofNat 8 w) ⟨0, 0, 0, 0, 0, 0⟩ s
  | some i =>
    match i.port with
    | .cmd => placeCommand (BitVec.ofNat 8 w) ⟨0, 0, 0, 0, 0, 0⟩ s
    | .control => { s with env := .hostWrite 32 controlOffset (BitVec.ofNat 32 w) :: s.env }
    | .status => { s with env := .hostWrite 32 statusOffset (BitVec.ofNat 32 w) :: s.env }
    | .ack => placeAck (encode i) s
    | .request _ => s

end Sys2Proof.Machine
end

