-- ==== Sys2Proof/Machine/Step.lean ====
section
/-! DEFINITION. One step: the next move, run as the instruction it brings or as the move it is. -/

namespace Sys2Proof.Machine

/-- One atomic step of the block (R280, R345). -/
def step (s : State) : Host.Outcome State Fault Refusal :=
  match fetch s with
  | some i => exec i (popMove s)
  | none => otherMove (nextMove s) (popMove s)

/-- `s` with the instruction of an opcode-table word placed where `step` takes its next instruction (log 18). -/
def State.withFetchWord (s : State) (nbits w : Nat) : State := placeWord (decodeTableWord nbits w) w s

end Sys2Proof.Machine
end

