-- ==== Sys2Proof/Safety.lean ====
section
/-! DEFINITION. What holds of the machine between steps: the canonical memory, the buffer bounds, the agreement of the status bits, the engine state and the outstanding request, and what a running exchange or stream keeps. -/

namespace Sys2Proof.Machine

/-- The bounds of the records that hold in every state: the canonical form of the memory, the sizes of the frame buffers and the ranges
of TXLEN, RXN and K.size (R43, R47). -/
structure Bounds (s : State) : Prop where
  memory : s.bufmem.wf = true
  txbuf : s.txbuf.length = 249
  rxbuf : s.rxbuf.length = 248
  txlen : s.txlen ≤ 249
  rxn : s.rxn ≤ 248
  chunk : s.k.size ≤ 240

/-- R146: the request that is outstanding in each engine state. -/
def outstandingFor (s : State) : Option TxRequest :=
  match s.engine with
  | .sendWait => some (.send (txFrame s) s.txlen s.q.T)
  | .recvWait => some (.recv s.rxn s.q.T)
  | .ctlWait => some (.setTimeout s.q.rawT)
  | .idle => none
  | .send => none
  | .recv => none
  | .cbWait => none

/-- R281 to R283: what the checks and the defaults of an accepted GO leave true of the latched request of a data command. -/
structure RequestOk (q : Latched) : Prop where
  timeout : q.T ≠ 0
  budget : q.noerr = false → 0 < q.R.toNat ∧ q.R.msb = false
  inside : q.ptr.toNat + q.size.toNat ≤ 4294967296
  nonnull : q.size ≠ 0 → q.ptr ≠ 0

/-- A register command runs (R190 to R201): `TXBUF` holds its request frame, the acknowledgement it waits for is its own,
and nothing is done yet. -/
structure ExchangeOk (s : State) : Prop where
  noCallback : s.engine ≠ .cbWait
  size : s.q.size.toNat ≤ 240
  progress : s.bytesDone = 0 ∧ s.chunks = 0
  frame : (s.q.code = 0x01 ∧ s.rxn = 7 ∧ s.expack = 0x81 ∧
      ∃ payload, payload.length = s.q.size.toNat ∧ txFrame s = encode (.write (hintByte s.q) s.q.addr payload)) ∨
    (s.q.code = 0x02 ∧ s.rxn = s.q.size.toNat + 7 ∧ s.expack = 0x82 ∧
      txFrame s = encode (.read (hintByte s.q) s.q.addr (s.q.size.setWidth 8)))

/-- The chunk of a stream is open (R222): the chunk record is that of R221 and the acknowledgement the engine waits for is the chunk's. -/
structure ChunkOk (s : State) : Prop where
  left : s.c.remaining ≠ 0
  size : s.k.size = chunkSize s.c.remaining
  final : s.k.final = decide (s.k.size = s.c.remaining.toNat)
  ack : (s.q.code = 0x04 ∧ s.rxn = 7 ∧ s.expack = 0x84) ∨ (s.q.code = 0x08 ∧ s.rxn = s.k.size + 8 ∧ s.expack = 0x88)

/-- A stream runs (R220 to R248): the cursor adds up to the request, `BYTES_DONE` and `CHUNKS` follow it, a `WRITE_FIFO` has moved
full chunks of 240 bytes only but for its last (R244), and between chunks a stream that goes on has bytes left (R239). -/
structure StreamOk (s : State) : Prop where
  code : s.q.code = 0x04 ∨ s.q.code = 0x08
  cursor : s.c.offset.toNat + s.c.remaining.toNat = s.q.size.toNat
  progress : s.bytesDone = s.c.offset
  chunks : s.chunks.toNat ≤ s.c.offset.toNat
  first : s.c.first = decide (s.c.offset = 0)
  writeChunks : s.q.code = 0x04 → s.chunks.toNat = (s.c.offset.toNat + 239) / 240 ∧
    (s.c.remaining ≠ 0 → s.c.offset.toNat % 240 = 0)
  callback : s.engine = .cbWait → s.e.pending = false → s.c.remaining ≠ 0
  chunk : s.engine ≠ .cbWait → ChunkOk s

/-- What a running command keeps. -/
def RunningOk (s : State) : Prop :=
  match s.engine with
  | .idle => True
  | .ctlWait => s.q.code = 0x10
  | .send => RequestOk s.q ∧ (ExchangeOk s ∨ StreamOk s)
  | .sendWait => RequestOk s.q ∧ (ExchangeOk s ∨ StreamOk s)
  | .recv => RequestOk s.q ∧ (ExchangeOk s ∨ StreamOk s)
  | .recvWait => RequestOk s.q ∧ (ExchangeOk s ∨ StreamOk s)
  | .cbWait => RequestOk s.q ∧ (ExchangeOk s ∨ StreamOk s)

/-- The invariant of the machine. -/
structure Inv (s : State) : Prop where
  bounds : Bounds s
  busy : s.busy = decide (s.engine ≠ .idle)
  pending : s.chunkPending = decide (s.engine = .cbWait)
  done : s.engine ≠ .idle → s.done = false
  request : s.outstanding = outstandingFor s
  running : RunningOk s

end Sys2Proof.Machine
end

