-- ==== Sys2Proof/Certificates/Slice0/Obligations.lean ====
section
/-! DEFINITION. The statements for the provers: what each instruction, each move of an agent and the whole machine do, in the spec's own terms.
The first part spells out the states and records the statements speak of, from the rules they cite. -/

namespace Sys2Proof.Claims

open Sys2Proof Sys2Proof.Machine

/-! ## The spec's states, spelled out -/

/-- R160: a request frame: the hint byte if there is one, the body from `L` on, and the CRC8 of the body. -/
def frameOf (hint : Option Byte) (body : List Byte) : List Byte := hint.toList ++ body ++ [crc8 body]

/-- R281: the request an accepted GO latches. -/
def latched (code : Byte) (req : Request) : Latched :=
  { code := code, addr := req.addr, ptr := req.ptr, size := req.size
    T := if req.timeout = 0 then 5000 else req.timeout
    noerr := decide (req.retries.toInt < 0)
    R := if req.retries = 0 then 5 else req.retries
    start := req.flags.getLsbD 0, endf := req.flags.getLsbD 1, retryEn := req.flags.getLsbD 2
    cbEn := req.flags.getLsbD 3, tagged := req.flags.getLsbD 4, rawT := req.timeout }

/-- R281: the state of an accepted GO before the checks and the dispatch. -/
def accepted (code : Byte) (req : Request) (s : State) : State :=
  { s with q := latched code req, done := false, bytesDone := 0, chunks := 0, e := { s.e with pending := false }, busy := true }

/-- R282 to R284: the GO of `code` with the request `req` breaks the caller's contract. -/
def Violates (code : Byte) (req : Request) : Prop :=
  ¬ (code = 0x01 ∨ code = 0x02 ∨ code = 0x04 ∨ code = 0x08 ∨ code = 0x10) ∨
  (code ≠ 0x10 ∧ 0 < req.size.toNat ∧ req.ptr = 0) ∨
  (code ≠ 0x10 ∧ 4294967296 < req.ptr.toNat + req.size.toNat) ∨
  ((code = 0x01 ∨ code = 0x02) ∧ 240 < req.size.toNat)

/-- R285: the state a refusal at GO leaves. -/
def refusedGo (code : Byte) (req : Request) (s : State) : State :=
  { accepted code req s with result := -2, chunkPending := false, busy := false, done := true, engine := .idle }

/-- R306: the state `finish(st)` leaves. -/
def ended (st : Word) (s : State) : State :=
  { s with dataSize := if s.q.code = 0x08 then s.bytesDone else s.dataSize
           result := st, chunkPending := false, busy := false, done := true, engine := .idle }

/-- R221: the size of a chunk when `n` bytes remain. -/
def pieceOf (n : Word) : Nat := if n.toNat ≤ 240 then n.toNat else 240

/-- R192, R222: both phase records fresh and the last status cleared, with the acknowledgement that is waited for. -/
def exchangeOpened (rxn : Nat) (expack : Byte) (s : State) : State :=
  { s with rxn := rxn, expack := expack, ps := { s.ps with slots := 0, armed := false }, pa := { s.pa with slots := 0, armed := false }
           ls := { s.ls with valid := false }, engine := .send }

/-- R88, R96: where the payload of a `WRITE_FIFO` frame begins in the send buffer. -/
def payloadOffset (q : Latched) : Nat := if q.tagged then 8 else 7

/-- R222: `start_chunk` of a `WRITE_FIFO`: the chunk record, and its payload read from the buffer into the send buffer. -/
def writeChunkOpened (s : State) : State :=
  let p := pieceOf s.c.remaining
  exchangeOpened 7 0x84
    { s with k := { size := p, final := decide (p = s.c.remaining.toNat), resend := false }
             txbuf := s.txbuf.take (payloadOffset s.q) ++ bufBytes s.bufmem (s.q.ptr + s.c.offset) p ++
               s.txbuf.drop (payloadOffset s.q + p) }

/-- R222: `start_chunk` of a `READ_FIFO`. -/
def readChunkOpened (s : State) : State :=
  let p := pieceOf s.c.remaining
  exchangeOpened (p + 8) 0x88 { s with k := { size := p, final := decide (p = s.c.remaining.toNat), resend := false } }

/-- R262, R264: a phase record after a failed attempt at `now`: the elapsed time is taken modulo 2^32 and "exceeds" is strict. -/
def afterFailure (now T : Word) (ph : Phase) : Phase :=
  if ph.armed = false then { slots := ph.slots, armed := true, t0 := now }
  else if T.toNat < (now.toNat + 4294967296 - ph.t0.toNat) % 4294967296 then { slots := ph.slots + 1, armed := true, t0 := now }
  else ph

/-- The running command is a FIFO command. -/
def isStream (s : State) : Bool := s.q.code == 0x04 || s.q.code == 0x08

/-- R198: `exhausted()`. -/
def exhaustedResult (s : State) : Word := if s.ls.valid then s.ls.value else -1

/-- R195, R227: what a failed send attempt does. -/
def sendFailed (s : State) : State :=
  if s.q.noerr then ended 0 s
  else
    let ph := afterFailure s.timeMs s.q.T s.ps
    let u := { s with ps := ph, k := { s.k with resend := s.k.resend || isStream s } }
    if s.q.R.toNat ≤ ph.slots.toNat then ended (exhaustedResult s) u else { u with engine := .send }

/-- R196, R227, R229: what a failed await-ack attempt does: a register command receives again, a FIFO chunk is sent again. -/
def ackFailed (s : State) : State :=
  if s.q.noerr then ended 0 s
  else
    let ph := afterFailure s.timeMs s.q.T s.pa
    let u := { s with pa := ph, k := { s.k with resend := s.k.resend || isStream s } }
    if s.q.R.toNat ≤ ph.slots.toNat then ended (exhaustedResult s) u
    else { u with engine := if isStream s then .send else .recv }

/-- R101, R176: the covered length of the receive buffer `f`. -/
def covered (s : State) (f : List Byte) : Nat := if s.expack = 0x88 then 7 + (f.getD 6 0).toNat else s.rxn - 1

/-- R173, R176: the receive buffer `f` passes the count check of an `ACK_READ_FIFO` and the checks (a), (b) and (c). -/
def Passes (s : State) (f : List Byte) : Prop :=
  (s.expack = 0x88 → (f.getD 6 0).toNat ≤ s.k.size) ∧ f.getD 0 0 ≠ 0 ∧
    crc8 (f.take (covered s f)) = f.getD (covered s f) 0 ∧ f.getD 1 0 = s.expack

/-- R174: the status word of the receive buffer `f`. -/
def statusOfFrame (f : List Byte) : Word := s32le (f.getD 2 0) (f.getD 3 0) (f.getD 4 0) (f.getD 5 0)

/-- R142: the state in which the outstanding receive was answered with the bytes `f`, a full count. -/
def received (f : List Byte) (s : State) : State :=
  { s with outstanding := none, rxbuf := f ++ s.rxbuf.drop f.length }

/-- R235, R236: the cursor, the progress registers and the pending end after `a` bytes were accepted with status `st`. -/
def chunkAccepted (st : Word) (a : Nat) (s : State) : State :=
  { s with c := { remaining := s.c.remaining - BitVec.ofNat 32 a, offset := s.c.offset + BitVec.ofNat 32 a, first := false }
           bytesDone := s.c.offset + BitVec.ofNat 32 a, chunks := s.chunks + 1
           e := { pending := decide (s.c.remaining = BitVec.ofNat 32 a ∨ 0 < st.toInt), status := st } }

/-- The memory `m` is `m0` with the bytes `d` at `a` and up: canonical, holding `d` there, and as before everywhere else. -/
def StoredAt (m0 m : Memory) (a : Nat) (d : List Byte) : Prop :=
  m.wf = true ∧ (∀ j, j < d.length → memGet m (a + j) = d.getD j 0) ∧
    ∀ b, b < a ∨ a + d.length ≤ b → memGet m b = memGet m0 b

/-- R62: byte `j` of the `n` bytes from `a` on is the first that the platform does not back. -/
def FirstUnbacked (s : State) (a : Word) (n j : Nat) : Prop :=
  j < n ∧ (∀ i, i < j → isBacked s (a + BitVec.ofNat 32 i) = true) ∧ isBacked s (a + BitVec.ofNat 32 j) = false

end Sys2Proof.Claims

open Sys2Proof Sys2Proof.Machine Sys2Proof.Claims

/-! ## Encodings -/

/-- The worked frames of R161 to R165 and R170 to R173, the register block of P1 (95_test_vectors.md), and the action words of R30 and R293
decode to the instructions they stand for. -/
def Obligations.DecodesTheSpecsWorkedWords : Prop :=
  decode (.request false) [0x09, 0x01, 0x00, 0x10, 0x00, 0x00, 0xAA, 0xBB, 0xBB, 0xAA, 0x48] =
    .ok (.write none 0x1000 [0xAA, 0xBB, 0xBB, 0xAA]) ∧
  decode (.request true) [0x01, 0x09, 0x01, 0x00, 0x10, 0x00, 0x00, 0xAA, 0xBB, 0xBB, 0xAA, 0x48] =
    .ok (.write (some 1) 0x1000 [0xAA, 0xBB, 0xBB, 0xAA]) ∧
  decode (.request false) [0x06, 0x02, 0xFF, 0xFF, 0xFF, 0xFF, 0xF0, 0x68] = .ok (.read none 0xFFFFFFFF 240) ∧
  decode (.request false) [0x0A, 0x04, 0x03, 0x00, 0x30, 0x00, 0x00, 0x11, 0x22, 0x33, 0x44, 0xB0] =
    .ok (.writeFifoFrame none 3 0x3000 [0x11, 0x22, 0x33, 0x44]) ∧
  decode (.request false) [0x07, 0x08, 0x01, 0x00, 0x40, 0x00, 0x00, 0xF0, 0x50] = .ok (.readFifoFrame none 1 0x4000 240) ∧
  decode .ack [0x05, 0x81, 0x02, 0x00, 0x00, 0x00, 0x40] = .ok (.ackWrite 5 2 0x40) ∧
  decode .ack [0x09, 0x82, 0x00, 0x00, 0x00, 0x00, 0xAA, 0xBB, 0xBB, 0xAA, 0xB8] =
    .ok (.ackRead 9 0 [0xAA, 0xBB, 0xBB, 0xAA] 0xB8) ∧
  decode .ack [0x05, 0x84, 0xF9, 0xFF, 0xFF, 0xFF, 0xF0] = .ok (.ackWriteFifo 5 (-7) 0xF0) ∧
  decode .ack [0x0A, 0x88, 0x00, 0x00, 0x00, 0x00, 0x04, 0xA1, 0xA2, 0xA3, 0xA4, 0x88] =
    .ok (.ackReadFifo 10 0 [0xA1, 0xA2, 0xA3, 0xA4] 0x88 []) ∧
  decode .ack [0x05, 0xC0, 0xFB, 0xFF, 0xFF, 0xFF, 0xA8] = .ok (.ackError 5 (-5) [0xA8]) ∧
  decode .cmd [0x01, 0, 0, 0, 0x00, 0x10, 0, 0, 0x00, 0x01, 0, 0, 4, 0, 0, 0, 100, 0, 0, 0, 3, 0, 0, 0, 0, 0, 0, 0] =
    .ok (.writeRegister ⟨0x1000, 0x100, 4, 100, 3, 0⟩) ∧
  decode .control [1, 0, 0, 0] = .ok (.go false false) ∧ decode .control [2, 0, 0, 0] = .ok .cbAck ∧
  decode .control [6, 0, 0, 0] = .ok .cbAckAbort ∧ decode .status [2, 0, 0, 0] = .ok .doneClear

/-- Decoding the encoding of a well-formed instruction, at the port where it stands, gives it back, with every operand. -/
def Obligations.EncodedInstructionDecodesToItself : Prop :=
  ∀ i : Instr, i.wf = true → decode i.port (encode i) = .ok i

/-- Bytes that decode as a command block, a request frame or an acknowledgement are the encoding of a well-formed instruction of that port:
no reserved bit, no unknown code and no wrong length byte or CRC is taken for one. -/
def Obligations.DecodedBytesAreTheEncoding : Prop :=
  ∀ (p : Port) (bs : List Byte) (i : Instr), p ≠ .control → p ≠ .status → decode p bs = .ok i →
    i.wf = true ∧ i.port = p ∧ encode i = bs

/-- R30, R288, R292, R293: the action of every CONTROL word and of every STATUS word. -/
def Obligations.ActionOfAControlOrStatusWord : Prop :=
  ∀ w : Word,
    (w.getLsbD 0 = true → decode .control (le32 w) = .ok (.go (w.getLsbD 1) (w.getLsbD 2))) ∧
    (w.getLsbD 0 = false → w.getLsbD 1 = true → w.getLsbD 2 = false → decode .control (le32 w) = .ok .cbAck) ∧
    (w.getLsbD 0 = false → w.getLsbD 1 = true → w.getLsbD 2 = true → decode .control (le32 w) = .ok .cbAckAbort) ∧
    (w.getLsbD 0 = false → w.getLsbD 1 = false → decode .control (le32 w) = .error .noAction) ∧
    (w.getLsbD 1 = true → decode .status (le32 w) = .ok .doneClear) ∧
    (w.getLsbD 1 = false → decode .status (le32 w) = .error .noAction)

/-- R88 to R90, R104: a request frame is `L + 2 + h` bytes long, its last byte is the CRC8 of the bytes from `L` to the one before it,
`L` is at most 246 and the frame at most 249 bytes. -/
def Obligations.RequestFrameLengthAndCrc : Prop :=
  ∀ (i : Instr) (tagged : Bool), i.wf = true → i.port = .request tagged →
    let f := encode i
    let h := if tagged then 1 else 0
    let L := (f.getD h 0).toNat
    f.length = L + 2 + h ∧ L ≤ 246 ∧ f.length ≤ 249 ∧ f.getD (h + L + 1) 0 = crc8 ((f.drop h).take (L + 1))

/-- R92: the hint byte stands before the frames of a tagged request only, and is the timeout in whole seconds, rounded up, at most 255. -/
def Obligations.HintByteIsTheTimeoutInSeconds : Prop :=
  ∀ q : Latched,
    (q.tagged = false → hintByte q = none) ∧
    (q.tagged = true → ∃ v, hintByte q = some v ∧
      (q.T.toNat ≤ 255000 → q.T.toNat ≤ 1000 * v.toNat ∧ 1000 * v.toNat < q.T.toNat + 1000) ∧
      (255000 < q.T.toNat → v = 255))

/-! ## CRC8 -/

/-- R133 and R134: the CRC table, entry by entry, as the doubling method of R123 builds it and as the engine uses it, its zero entries,
and the worked CRC values. -/
def Obligations.CrcTableAndWorkedValues : Prop :=
  let rows : List Byte :=
    [0x00, 0x38, 0x70, 0x48, 0xE0, 0xD8, 0x90, 0xA8, 0xF8, 0xC0, 0x88, 0xB0, 0x18, 0x20, 0x68, 0x50] ++
    [0xC8, 0xF0, 0xB8, 0x80, 0x28, 0x10, 0x58, 0x60, 0x30, 0x08, 0x40, 0x78, 0xD0, 0xE8, 0xA0, 0x98] ++
    [0xA8, 0x90, 0xD8, 0xE0, 0x48, 0x70, 0x38, 0x00, 0x50, 0x68, 0x20, 0x18, 0xB0, 0x88, 0xC0, 0xF8] ++
    [0x60, 0x58, 0x10, 0x28, 0x80, 0xB8, 0xF0, 0xC8, 0x98, 0xA0, 0xE8, 0xD0, 0x78, 0x40, 0x08, 0x30] ++
    [0x68, 0x50, 0x18, 0x20, 0x88, 0xB0, 0xF8, 0xC0, 0x90, 0xA8, 0xE0, 0xD8, 0x70, 0x48, 0x00, 0x38] ++
    [0xA0, 0x98, 0xD0, 0xE8, 0x40, 0x78, 0x30, 0x08, 0x58, 0x60, 0x28, 0x10, 0xB8, 0x80, 0xC8, 0xF0] ++
    [0xC0, 0xF8, 0xB0, 0x88, 0x20, 0x18, 0x50, 0x68, 0x38, 0x00, 0x48, 0x70, 0xD8, 0xE0, 0xA8, 0x90] ++
    [0x08, 0x30, 0x78, 0x40, 0xE8, 0xD0, 0x98, 0xA0, 0xF0, 0xC8, 0x80, 0xB8, 0x10, 0x28, 0x60, 0x58] ++
    [0xD0, 0xE8, 0xA0, 0x98, 0x30, 0x08, 0x40, 0x78, 0x28, 0x10, 0x58, 0x60, 0xC8, 0xF0, 0xB8, 0x80] ++
    [0x18, 0x20, 0x68, 0x50, 0xF8, 0xC0, 0x88, 0xB0, 0xE0, 0xD8, 0x90, 0xA8, 0x00, 0x38, 0x70, 0x48] ++
    [0x78, 0x40, 0x08, 0x30, 0x98, 0xA0, 0xE8, 0xD0, 0x80, 0xB8, 0xF0, 0xC8, 0x60, 0x58, 0x10, 0x28] ++
    [0xB0, 0x88, 0xC0, 0xF8, 0x50, 0x68, 0x20, 0x18, 0x48, 0x70, 0x38, 0x00, 0xA8, 0x90, 0xD8, 0xE0] ++
    [0xB8, 0x80, 0xC8, 0xF0, 0x58, 0x60, 0x28, 0x10, 0x40, 0x78, 0x30, 0x08, 0xA0, 0x98, 0xD0, 0xE8] ++
    [0x70, 0x48, 0x00, 0x38, 0x90, 0xA8, 0xE0, 0xD8, 0x88, 0xB0, 0xF8, 0xC0, 0x68, 0x50, 0x18, 0x20] ++
    [0x10, 0x28, 0x60, 0x58, 0xF0, 0xC8, 0x80, 0xB8, 0xE8, 0xD0, 0x98, 0xA0, 0x08, 0x30, 0x78, 0x40] ++
    [0xD8, 0xE0, 0xA8, 0x90, 0x38, 0x00, 0x48, 0x70, 0x20, 0x18, 0x50, 0x68, 0xC0, 0xF8, 0xB0, 0x88]
  populate 0x38 = rows ∧ (List.range 256).map (fun j => crcTab (BitVec.ofNat 8 j)) = rows ∧
  (List.range 256).filter (fun j => crcTab (BitVec.ofNat 8 j) = 0) = [0x00, 0x27, 0x4E, 0x69, 0x9C, 0xBB, 0xD2, 0xF5] ∧
  crc8 [] = 0xFF ∧ crc8 [0x00] = 0x88 ∧ crc8 [0x01] = 0xB0 ∧ crc8 [0xFF] = 0x00 ∧ crc8 [0xFF, 0xFF, 0xFF, 0xFF] = 0xF0 ∧
  crc8 [0x31, 0x32, 0x33, 0x34, 0x35, 0x36, 0x37, 0x38, 0x39] = 0xF8 ∧ crc8 (List.replicate 240 0) = 0x28 ∧
  crc8 [0x05, 0x81, 0x00, 0x00, 0x00, 0x00] = 0x60 ∧
  (List.range 10).map (fun j => crc8 ([0x09, 0x01, 0x00, 0x10, 0x00, 0x00, 0xAA, 0xBB, 0xBB, 0xAA].take (j + 1))) =
    [0x48, 0xA8, 0x80, 0x18, 0x30, 0x60, 0x30, 0x60, 0xC0, 0x48]

/-- R128: the table is linear over XOR; and by R129 the CRC of a nonempty sequence has bits 2 to 0 clear, so a CRC byte with any of them set
never matches. -/
def Obligations.CrcTableIsLinear : Prop :=
  (∀ a b : Byte, crcTab (a ^^^ b) = crcTab a ^^^ crcTab b) ∧ crcTab 0 = 0 ∧
  (∀ (b : Byte) (bs : List Byte), crc8 (b :: bs) &&& 7 = 0) ∧
  ∀ (b c : Byte) (bs : List Byte), c &&& 7 ≠ 0 → crc8 (b :: bs) ≠ c

/-- R130: an error `e` in one byte of the covered region goes undetected exactly when the table entry of `e` is 0, that is for seven patterns,
none of them a single bit; so every single-bit error in the covered region and every error in the CRC byte is detected. After the first byte the
register holds only values with bits 2 to 0 clear, on which the table is one-to-one. -/
def Obligations.CrcDetectsSingleBitErrors : Prop :=
  (∀ (pre post : List Byte) (b e : Byte), crc8 (pre ++ (b ^^^ e) :: post) = crc8 (pre ++ b :: post) ↔ crcTab e = 0) ∧
  (∀ e : Byte, e ≠ 0 → (crcTab e = 0 ↔ e ∈ [(0x27 : Byte), 0x4E, 0x69, 0x9C, 0xBB, 0xD2, 0xF5])) ∧
  (∀ (pre post : List Byte) (b : Byte) (j : Nat), j < 8 → crc8 (pre ++ (b ^^^ (1#8 <<< j)) :: post) ≠ crc8 (pre ++ b :: post)) ∧
  (∀ (bs : List Byte) (c e : Byte), crc8 bs = c → e ≠ 0 → crc8 bs ≠ c ^^^ e) ∧
  (∀ (b : Byte) (bs : List Byte), crc8 (b :: bs) &&& 7 = 0) ∧
  ∀ c d : Byte, c &&& 7 = 0 → d &&& 7 = 0 → crcTab c = crcTab d → c = d

/-! ## Buffer memory -/

/-- R62: a byte written is the byte read, every other byte is as before, and the memory stays canonical, so that memories with the same bytes
are the same data. -/
def Obligations.MemoryReadAfterWrite : Prop :=
  (∀ (m : Memory) (a b : Nat) (v : Byte), m.wf = true → a < 4294967296 →
    (memSet m a v).wf = true ∧ memGet (memSet m a v) b = if b = a then v else memGet m b) ∧
  ∀ m m' : Memory, m.wf = true → m'.wf = true → (∀ a, memGet m a = memGet m' a) → m = m'

/-- R62, R63, R64: every access of the engine to its buffer stops at the first byte of its range, in ascending order, that the platform does not
back; the fault names that byte (the fault is the model's form of "stuck", log 11). The accesses are the reads of a `WRITE_REGISTER` and of the
first chunk of a `WRITE_FIFO`, run as commands or by a GO, the read of the next chunk that a CB_ACK or an accepted `ACK_WRITE_FIFO` opens, and the
writes of an accepted `ACK_READ` and of an accepted `ACK_READ_FIFO` that does not end its stream. -/
def Obligations.UnbackedBufferByteStops : Prop :=
  (∀ (req : Request) (s : State) (j : Nat), s.busy = false → ¬ Violates 0x01 req → FirstUnbacked s req.ptr req.size.toNat j →
    exec (.writeRegister req) s = .fault (.unbackedByte (req.ptr + BitVec.ofNat 32 j))) ∧
  (∀ (req : Request) (s : State) (j : Nat), s.busy = false → ¬ Violates 0x04 req → FirstUnbacked s req.ptr (pieceOf req.size) j →
    exec (.writeFifo req) s = .fault (.unbackedByte (req.ptr + BitVec.ofNat 32 j))) ∧
  (∀ (cb ab : Bool) (s : State) (j : Nat), s.busy = false → ¬ Violates s.cmd (requestOf s) →
    (s.cmd = 0x01 ∧ FirstUnbacked s s.dataPtr s.dataSize.toNat j) ∨ (s.cmd = 0x04 ∧ FirstUnbacked s s.dataPtr (pieceOf s.dataSize) j) →
    exec (.go cb ab) s = .fault (.unbackedByte (s.dataPtr + BitVec.ofNat 32 j))) ∧
  (∀ (s : State) (j : Nat), s.engine = .cbWait → s.e.pending = false → s.q.code = 0x04 →
    FirstUnbacked s (s.q.ptr + s.c.offset) (pieceOf s.c.remaining) j →
    exec .cbAck s = .fault (.unbackedByte (s.q.ptr + s.c.offset + BitVec.ofNat 32 j))) ∧
  (∀ (len : Byte) (st : Word) (s : State) (j : Nat), s.engine = .recvWait → s.q.code = 0x04 → s.rxn = 7 → s.expack = 0x84 →
    len ≠ 0 → 0 ≤ st.toInt →
    let c := crc8 ([len, 0x84] ++ le32 st)
    let u := chunkAccepted st s.k.size (received ([len, 0x84] ++ le32 st ++ [c]) s)
    s.q.cbEn = false → u.e.pending = false → FirstUnbacked s (u.q.ptr + u.c.offset) (pieceOf u.c.remaining) j →
    exec (.ackWriteFifo len st c) s = .fault (.unbackedByte (u.q.ptr + u.c.offset + BitVec.ofNat 32 j))) ∧
  (∀ (len : Byte) (st : Word) (data : List Byte) (s : State) (j : Nat), s.engine = .recvWait → s.q.code = 0x02 → s.expack = 0x82 →
    s.rxn = data.length + 7 → s.q.size.toNat = data.length → s.rxn ≤ 248 → len ≠ 0 → 0 ≤ st.toInt →
    FirstUnbacked s s.q.ptr data.length j →
    exec (.ackRead len st data (crc8 ([len, 0x82] ++ le32 st ++ data))) s = .fault (.unbackedByte (s.q.ptr + BitVec.ofNat 32 j))) ∧
  ∀ (len : Byte) (st : Word) (data rest : List Byte) (s : State) (j : Nat), s.engine = .recvWait → s.q.code = 0x08 → s.expack = 0x88 →
    s.rxn = data.length + rest.length + 8 → s.rxn ≤ 248 → data.length ≤ s.k.size → len ≠ 0 → 0 ≤ st.toInt → st ≠ 1 →
    FirstUnbacked s (s.q.ptr + s.c.offset) data.length j →
    exec (.ackReadFifo len st data (crc8 ([len, 0x88] ++ le32 st ++ [BitVec.ofNat 8 data.length] ++ data)) rest) s =
      .fault (.unbackedByte (s.q.ptr + s.c.offset + BitVec.ofNat 32 j))

/-- R77, R350: what the host's own buffer accesses do. A store outside the running command's buffer sets that byte and nothing else;
inside, it is refused (I9). A load returns the byte where the host may read; elsewhere the value is free (log 14), and nothing else changes. -/
def Obligations.HostBufferAccesses : Prop :=
  (∀ (s : State) (a : Word) (v : Byte), nextMove s = .bufStore a v → isBacked s a = true →
    (inRunningBuffer s a = false → step s = .next { popMove s with bufmem := memSet s.bufmem a.toNat v }) ∧
    (inRunningBuffer s a = true → step s = .refused (.hostStoreWhileBusy a))) ∧
  (∀ (s : State) (a : Word), nextMove s = .bufLoad a → isBacked s a = true →
    (inRunningBuffer s a = false ∨ (s.chunkPending = true ∧ a.toNat < s.q.ptr.toNat + s.bytesDone.toNat) →
      step s = .next { popMove s with bufData := memGet s.bufmem a.toNat }) ∧
    ∃ v n, step s = .next { popMove s with bufData := v, freeCount := n }) ∧
  ∀ (s : State) (a : Word), s.q.code ≠ 0x10 →
    (inRunningBuffer s a = true ↔ s.busy = true ∧ s.q.ptr.toNat ≤ a.toNat ∧ a.toNat < s.q.ptr.toNat + s.q.size.toNat)

/-! ## Host registers and interrupts -/

/-- R23 to R36, R40, R280: an admitted read returns the register's word and changes nothing else; STATUS shows BUSY, DONE, CHUNK_PENDING
and the engine state's code. -/
def Obligations.HostReadReturnsTheRegister : Prop :=
  ∀ (s : State) (offset : Nat), nextMove s = .hostRead 32 offset → offset % 4 = 0 → offset < 64 →
    ∃ v, step s = .next { popMove s with portData := v } ∧
      (offset = 0x00 → v = s.cmd.setWidth 32) ∧ (offset = 0x04 → v = s.addr) ∧ (offset = 0x08 → v = s.dataPtr) ∧
      (offset = 0x0C → v = s.dataSize) ∧ (offset = 0x10 → v = s.timeoutMs) ∧ (offset = 0x14 → v = s.maxRetries) ∧
      (offset = 0x18 → v = s.flags.setWidth 32) ∧ (offset = 0x1C → v = 0) ∧
      (offset = 0x20 → v.getLsbD 0 = s.busy ∧ v.getLsbD 1 = s.done ∧ v.getLsbD 2 = s.chunkPending ∧ v.getLsbD 3 = false ∧
        v >>> 8 = 0 ∧ (v >>> 4).toNat =
          (match s.engine with | .idle => 0 | .send => 1 | .sendWait => 2 | .recv => 3 | .recvWait => 4 | .cbWait => 5 | .ctlWait => 6)) ∧
      (offset = 0x24 → v = s.result) ∧ (offset = 0x28 → v = s.bytesDone) ∧ (offset = 0x2C → v = s.irqEn.setWidth 32) ∧
      (offset = 0x30 → v = s.chanTimeout) ∧ (offset = 0x34 → v = s.chunks)

/-- R37 and R38: INFO reads 0x01F0_FF38 in every state and the reserved offset 0x3C reads 0; writes to either change nothing. -/
def Obligations.InfoIsConstantAndReservedReadsZero : Prop :=
  (∀ s : State, nextMove s = .hostRead 32 0x38 → step s = .next { popMove s with portData := 0x01F0FF38 }) ∧
  (∀ s : State, nextMove s = .hostRead 32 0x3C → step s = .next { popMove s with portData := 0 }) ∧
  ∀ (s : State) (v : Word), nextMove s = .hostWrite 32 0x38 v ∨ nextMove s = .hostWrite 32 0x3C v → step s = .next (popMove s)

/-- R23 to R29, R34, R39: with BUSY clear a write sets the register it names, in the bits it has; IRQ_EN takes a write at any time;
with BUSY set the request registers keep their values; RESULT, BYTES_DONE, CHAN_TIMEOUT and CHUNKS ignore writes. -/
def Obligations.HostWriteSetsTheRegister : Prop :=
  ∀ (s : State) (offset : Nat) (v : Word), nextMove s = .hostWrite 32 offset v →
    (offset = 0x2C → step s = .next { popMove s with irqEn := v.setWidth 2 }) ∧
    (s.busy = false →
      (offset = 0x00 → step s = .next { popMove s with cmd := v.setWidth 8 }) ∧
      (offset = 0x04 → step s = .next { popMove s with addr := v }) ∧
      (offset = 0x08 → step s = .next { popMove s with dataPtr := v }) ∧
      (offset = 0x0C → step s = .next { popMove s with dataSize := v }) ∧
      (offset = 0x10 → step s = .next { popMove s with timeoutMs := v }) ∧
      (offset = 0x14 → step s = .next { popMove s with maxRetries := v }) ∧
      (offset = 0x18 → step s = .next { popMove s with flags := v.setWidth 5 })) ∧
    (s.busy = true → offset ∈ [0x00, 0x04, 0x08, 0x0C, 0x10, 0x14, 0x18] → step s = .next (popMove s)) ∧
    (offset ∈ [0x24, 0x28, 0x30, 0x34] → step s = .next (popMove s))

/-- R39, R346, R26: while BUSY is set no step but a reset changes a request register, save the `DATA_SIZE` writeback at the end of a `READ_FIFO`. -/
def Obligations.RequestRegistersHeldWhileBusy : Prop :=
  ∀ s t : State, s.busy = true → nextMove s ≠ .rst → step s = .next t →
    t.cmd = s.cmd ∧ t.addr = s.addr ∧ t.dataPtr = s.dataPtr ∧ t.timeoutMs = s.timeoutMs ∧ t.maxRetries = s.maxRetries ∧
    t.flags = s.flags ∧ (t.dataSize = s.dataSize ∨ (s.q.code = 0x08 ∧ t.busy = false ∧ t.done = true ∧ t.dataSize = t.bytesDone))

/-- R22, R73: a register access of another width than 32 bits, at an offset that is no multiple of 4, or outside the window is refused
(that an access outside the window is refused too is the model's reading, log 12). -/
def Obligations.HostAccessOutsideTheRulesRefused : Prop :=
  ∀ (s : State) (width offset : Nat) (v : Word), width ≠ 32 ∨ offset % 4 ≠ 0 ∨ 64 ≤ offset →
    (nextMove s = .hostWrite width offset v → step s = .refused (.hostAccessNotAdmitted width offset)) ∧
    (nextMove s = .hostRead width offset → step s = .refused (.hostAccessNotAdmitted width offset))

/-- R49: the interrupt output is the level `(STATUS.DONE & IRQ_EN.DONE_IE) | (STATUS.CHUNK_PENDING & IRQ_EN.CHUNK_IE)`, 0 after reset. -/
def Obligations.IrqIsALevelOfStatusAndEnable : Prop :=
  (∀ s : State, irq s = true ↔
    ((readReg 0x20 s).getLsbD 1 = true ∧ (readReg 0x2C s).getLsbD 0 = true) ∨
    ((readReg 0x20 s).getLsbD 2 = true ∧ (readReg 0x2C s).getLsbD 1 = true)) ∧
  irq State.reset = false

/-! ## Reset and the invariant -/

/-- R340 and the reset table of 10_state.md section 4: what the host reads after reset, and that no request is outstanding.
The hidden records are not spoken of: their reset values are the model's (log 7). -/
def Obligations.ResetRegisterValues : Prop :=
  readReg 0x00 State.reset = 0 ∧ readReg 0x04 State.reset = 0 ∧ readReg 0x08 State.reset = 0 ∧ readReg 0x0C State.reset = 0 ∧
  readReg 0x10 State.reset = 0 ∧ readReg 0x14 State.reset = 0 ∧ readReg 0x18 State.reset = 0 ∧ readReg 0x1C State.reset = 0 ∧
  readReg 0x20 State.reset = 0 ∧ readReg 0x24 State.reset = 0 ∧ readReg 0x28 State.reset = 0 ∧ readReg 0x2C State.reset = 0 ∧
  readReg 0x30 State.reset = 0 ∧ readReg 0x34 State.reset = 0 ∧ readReg 0x38 State.reset = 0x01F0FF38 ∧
  State.reset.engine = .idle ∧ State.reset.outstanding = none ∧ irq State.reset = false

/-- R340, R341, R343: an asserted `rst` is one step from any state: every host register is at its reset value, the engine idle, the outstanding
request abandoned; the buffer memory and `TIME_MS` are as before. -/
def Obligations.ResetClearsTheBlockInOneStep : Prop :=
  ∀ s : State, nextMove s = .rst →
    ∃ t, step s = .next t ∧ t.engine = .idle ∧ t.outstanding = none ∧ irq t = false ∧
      (∀ offset, offset ≠ 0x38 → readReg offset t = 0) ∧ readReg 0x38 t = 0x01F0FF38 ∧
      t.bufmem = s.bufmem ∧ t.timeMs = s.timeMs ∧ t.backed = s.backed ∧ t.env = s.env.tail

/-- The invariant holds right after reset. -/
def Obligations.InvariantAtReset : Prop := Inv State.reset

/-- Every step from a state that meets the invariant leads to one that meets it: the memory stays canonical, the frame buffers keep their sizes,
the status bits agree with the engine state, the outstanding request is the one of the engine state, and a running command keeps its request,
its frame, its cursor and its chunk in agreement (R31, R43, R47, R146, R222, R235, R244). -/
def Obligations.StepKeepsTheInvariant : Prop := ∀ s t : State, Inv s → step s = .next t → Inv t

/-! ## A step runs the instruction that the next move brings -/

/-- R280, R281, R288, R291, R293, R193, R225, R196, R228: a CONTROL or STATUS write, the frame sent in SEND and the frame received in RECV_WAIT
run the instruction their bytes decode to, once the move is taken off the list; a GO runs the command in CMD with the request registers. -/
def Obligations.StepRunsTheDecodedInstruction : Prop :=
  (∀ (s : State) (w : Word) (i : Instr), nextMove s = .hostWrite 32 0x1C w → decode .control (le32 w) = .ok i →
    step s = exec i (popMove s)) ∧
  (∀ (s : State) (w : Word) (i : Instr), nextMove s = .hostWrite 32 0x20 w → decode .status (le32 w) = .ok i →
    step s = exec i (popMove s)) ∧
  (∀ (s : State) (cb ab : Bool) (i : Instr), s.busy = false → decode .cmd (requestBlock s.cmd (requestOf s)) = .ok i →
    exec (.go cb ab) s = exec i s) ∧
  (∀ (s : State) (i : Instr), nextMove s = .engine → s.engine = .send → isStream s = false →
    decode (.request s.q.tagged) (s.txbuf.take s.txlen) = .ok i → step s = exec i (popMove s)) ∧
  (∀ (s : State) (d : List Byte) (i : Instr), nextMove s = .response (BitVec.ofNat 32 d.length) d → s.engine = .recvWait →
    d.length = s.rxn → decode .ack d = .ok i → step s = exec i (popMove s)) ∧
  ∀ s : State, (popMove s).env = s.env.tail ∧ { popMove s with env := s.env } = s

/-! ## GO and the commands -/

/-- R281, R286: a GO with BUSY clear, a legal command, no contract violation and a backed buffer is taken: the request is latched and the status
and progress registers are set; the request registers, `CHAN_TIMEOUT`, `IRQ_EN`, the time and the memory are untouched, and so is RESULT
(R347), unless a zero-length stream ends at once with 0 (R242). -/
def Obligations.GoLatchesTheRequestAndStarts : Prop :=
  ∀ (cb ab : Bool) (s : State), s.busy = false → s.chunkPending = false → ¬ Violates s.cmd (requestOf s) →
    (s.cmd = 0x01 ∨ s.cmd = 0x04 → rangeBacked s s.dataPtr s.dataSize.toNat = true) →
    let empty : Bool := (s.cmd == 0x04 || s.cmd == 0x08) && s.dataSize == 0
    ∃ t, exec (.go cb ab) s = .next t ∧ t.q = latched s.cmd (requestOf s) ∧ t.busy = !empty ∧ t.done = empty ∧
      t.bytesDone = 0 ∧ t.chunks = 0 ∧ t.e.pending = false ∧ t.chunkPending = false ∧
      t.engine = (if empty then .idle else if s.cmd = 0x10 then .ctlWait else .send) ∧
      t.result = (if empty then 0 else s.result) ∧
      t.cmd = s.cmd ∧ t.addr = s.addr ∧ t.dataPtr = s.dataPtr ∧ t.dataSize = s.dataSize ∧ t.timeoutMs = s.timeoutMs ∧
      t.maxRetries = s.maxRetries ∧ t.flags = s.flags ∧ t.irqEn = s.irqEn ∧ t.chanTimeout = s.chanTimeout ∧
      t.timeMs = s.timeMs ∧ t.bufmem = s.bufmem ∧ t.rxbuf = s.rxbuf ∧ t.env = s.env

/-- R282 to R285: a GO, or a command, that breaks the caller's contract is refused in the same step: DONE with `ERR_INVALID`, no transport request,
no buffer access, and no `DATA_SIZE` write. A GO that breaks none of it is not refused: it runs, or is a stream of no bytes that ends with 0. -/
def Obligations.ContractViolationRefusedAtGo : Prop :=
  (∀ (cb ab : Bool) (s : State), s.busy = false → Violates s.cmd (requestOf s) →
    exec (.go cb ab) s = .next (refusedGo s.cmd (requestOf s) s)) ∧
  (∀ (code : Byte) (req : Request) (i : Instr) (s : State), commandOf code req = some i → s.busy = false → Violates code req →
    exec i s = .next (refusedGo code req s)) ∧
  ∀ (cb ab : Bool) (s t : State), s.busy = false → ¬ Violates s.cmd (requestOf s) → exec (.go cb ab) s = .next t →
    t.busy = true ∨ (s.dataSize = 0 ∧ t.result = 0)

/-- R287 and R288: with BUSY set a GO changes nothing and neither does a command; a CONTROL write with several action bits takes the GO when
BUSY is clear and the CB_ACK in CB_WAIT, never both. -/
def Obligations.GoIgnoredWhileBusy : Prop :=
  (∀ (ab : Bool) (s : State), s.busy = true → exec (.go false ab) s = .next s) ∧
  (∀ (i : Instr) (s : State), i.port = .cmd → s.busy = true → exec i s = .next s) ∧
  (∀ (ab : Bool) (s : State), s.busy = true → s.engine ≠ .cbWait → exec (.go true ab) s = .next s) ∧
  (∀ s : State, s.busy = true → s.engine = .cbWait →
    exec (.go true false) s = exec .cbAck s ∧ exec (.go true true) s = exec .cbAckAbort s) ∧
  ∀ (cb ab : Bool) (s : State), s.busy = false → exec (.go cb ab) s = exec (.go false false) s

/-- R190, R192, R94, R161, R165: a `WRITE_REGISTER` with a backed buffer reads it into a `WRITE` frame in the send buffer and starts the exchange. -/
def Obligations.WriteRegisterStartsItsExchange : Prop :=
  ∀ (req : Request) (s : State), s.busy = false → ¬ Violates 0x01 req → rangeBacked s req.ptr req.size.toNat = true →
    let f := frameOf (hintByte (latched 0x01 req))
      ([BitVec.ofNat 8 (5 + req.size.toNat), 0x01] ++ le32 req.addr ++ bufBytes s.bufmem req.ptr req.size.toNat)
    exec (.writeRegister req) s = .next (exchangeOpened 7 0x81
      { accepted 0x01 req s with txbuf := f ++ s.txbuf.drop f.length, txlen := f.length })

/-- R191, R192, R95, R162, R165: a `READ_REGISTER` puts its `READ` frame into the send buffer and starts the exchange; the buffer is not touched. -/
def Obligations.ReadRegisterStartsItsExchange : Prop :=
  ∀ (req : Request) (s : State), s.busy = false → ¬ Violates 0x02 req →
    let f := frameOf (hintByte (latched 0x02 req)) ([6, 0x02] ++ le32 req.addr ++ [req.size.setWidth 8])
    exec (.readRegister req) s = .next (exchangeOpened (req.size.toNat + 7) 0x82
      { accepted 0x02 req s with txbuf := f ++ s.txbuf.drop f.length, txlen := f.length })

/-- R220, R222, R242: a `WRITE_FIFO` of no bytes ends at once with 0; any other, its first chunk backed, opens that chunk. -/
def Obligations.WriteFifoStartsItsStream : Prop :=
  ∀ (req : Request) (s : State), s.busy = false → ¬ Violates 0x04 req →
    (req.size = 0 → exec (.writeFifo req) s = .next (ended 0 (accepted 0x04 req s))) ∧
    (req.size ≠ 0 → rangeBacked s req.ptr (pieceOf req.size) = true →
      exec (.writeFifo req) s = .next (writeChunkOpened
        { accepted 0x04 req s with c := { remaining := req.size, offset := 0, first := true } }))

/-- R224, R222, R242, R240: a `READ_FIFO` of no bytes ends at once with 0 and writes `DATA_SIZE`; any other opens its first chunk. -/
def Obligations.ReadFifoStartsItsStream : Prop :=
  ∀ (req : Request) (s : State), s.busy = false → ¬ Violates 0x08 req →
    (req.size = 0 → exec (.readFifo req) s = .next { ended 0 (accepted 0x08 req s) with dataSize := 0 }) ∧
    (req.size ≠ 0 → exec (.readFifo req) s = .next (readChunkOpened
      { accepted 0x08 req s with c := { remaining := req.size, offset := 0, first := true } }))

/-- R289: a `SET_CHANNEL_TIMEOUT` hands the timeout to the transport unchanged and waits; no other operand has an effect beyond being latched. -/
def Obligations.SetChannelTimeoutIssuesItsRequest : Prop :=
  ∀ (req : Request) (s : State), s.busy = false →
    exec (.setChannelTimeout req) s =
      .next { accepted 0x10 req s with outstanding := some (.setTimeout req.timeout), engine := .ctlWait }

/-- R289: its answer: a result of 0 or more sets `CHAN_TIMEOUT`, a negative one does not, and either ends the command as RESULT. -/
def Obligations.SetChannelTimeoutAnswer : Prop :=
  ∀ (r : Word) (d : List Byte) (s : State), nextMove s = .response r d → s.engine = .ctlWait → s.q.code = 0x10 →
    step s = .next { popMove s with
      outstanding := none, chanTimeout := if r.toInt < 0 then s.chanTimeout else s.q.rawT
      result := r, chunkPending := false, busy := false, done := true, engine := .idle }

/-! ## The callback's return and DONE -/

/-- R291, R239, R238: in CB_WAIT a CB_ACK ends a stream whose end is pending with its status, with or without ABORT; otherwise ABORT ends it with
`ERR_ABORTED`, and a plain CB_ACK opens the next chunk (its bytes backed, for a `WRITE_FIFO`). -/
def Obligations.CallbackReturnResumesTheStream : Prop :=
  ∀ s : State, s.engine = .cbWait →
    (s.e.pending = true →
      exec .cbAck s = .next (ended s.e.status s) ∧ exec .cbAckAbort s = .next (ended s.e.status s)) ∧
    (s.e.pending = false → exec .cbAckAbort s = .next (ended (-3) s)) ∧
    (s.e.pending = false → s.q.code = 0x04 → rangeBacked s (s.q.ptr + s.c.offset) (pieceOf s.c.remaining) = true →
      exec .cbAck s = .next (writeChunkOpened { s with chunkPending := false })) ∧
    (s.e.pending = false → s.q.code = 0x08 → exec .cbAck s = .next (readChunkOpened { s with chunkPending := false }))

/-- R292: outside CB_WAIT a CB_ACK, with or without ABORT, changes nothing, so none is remembered; and a CONTROL write of ABORT without CB_ACK
(and without GO) changes nothing in any state. -/
def Obligations.CallbackReturnIgnoredElsewhere : Prop :=
  (∀ s : State, s.engine ≠ .cbWait → exec .cbAck s = .next s ∧ exec .cbAckAbort s = .next s) ∧
  ∀ (s : State) (w : Word), nextMove s = .hostWrite 32 0x1C w → w.getLsbD 0 = false → w.getLsbD 1 = false → step s = .next (popMove s)

/-- R237, R310, R311: DONE and CHUNK_PENDING are never set together, and CB_WAIT is left only by a reset or by a CONTROL write with CB_ACK;
until then the command's registers and records stay as they are. -/
def Obligations.CallbackWaitHoldsTheStream : Prop :=
  ∀ s t : State, Inv s → step s = .next t →
    (t.done && t.chunkPending) = false ∧
    (s.engine = .cbWait → nextMove s = .rst ∨ (∃ w : Word, nextMove s = .hostWrite 32 0x1C w ∧ w.getLsbD 1 = true) ∨
      (t.engine = .cbWait ∧ t.q = s.q ∧ t.c = s.c ∧ t.k = s.k ∧ t.e = s.e ∧ t.bytesDone = s.bytesDone ∧ t.chunks = s.chunks ∧
        t.ps = s.ps ∧ t.pa = s.pa ∧ t.outstanding = none))

/-- R293: a STATUS write with bit 1 set clears DONE and nothing else; one without it changes nothing. -/
def Obligations.StatusWriteClearsDone : Prop :=
  (∀ s : State, exec .doneClear s = .next { s with done := false }) ∧
  ∀ (s : State) (w : Word), nextMove s = .hostWrite 32 0x20 w →
    (w.getLsbD 1 = true → step s = .next { popMove s with done := false }) ∧ (w.getLsbD 1 = false → step s = .next (popMove s))

/-! ## Sending -/

/-- R141, R160 to R165, R193, R225: in SEND each request frame is laid out in the send buffer as R94 to R97 say and becomes the outstanding send
with the effective timeout; nothing else changes. -/
def Obligations.RequestFrameIsLaidOutAndSent : Prop :=
  ∀ s : State, s.engine = .send →
    let sent (f : List Byte) : State :=
      { s with txbuf := f ++ s.txbuf.drop f.length, txlen := f.length
               outstanding := some (.send f f.length s.q.T), engine := .sendWait }
    (∀ hint addr payload, exec (.write hint addr payload) s =
      .next (sent (frameOf hint ([BitVec.ofNat 8 (5 + payload.length), 0x01] ++ le32 addr ++ payload)))) ∧
    (∀ hint addr size, exec (.read hint addr size) s = .next (sent (frameOf hint ([6, 0x02] ++ le32 addr ++ [size])))) ∧
    (∀ hint fop addr payload, exec (.writeFifoFrame hint fop addr payload) s =
      .next (sent (frameOf hint ([BitVec.ofNat 8 (6 + payload.length), 0x04, fop] ++ le32 addr ++ payload)))) ∧
    ∀ hint fop addr size, exec (.readFifoFrame hint fop addr size) s =
      .next (sent (frameOf hint ([7, 0x08, fop] ++ le32 addr ++ [size])))

/-- A request frame run in another engine state than SEND is refused, and an acknowledgement run in another state than RECV_WAIT changes nothing:
the model's choices for words that no run brings there (log 15, log 4). -/
def Obligations.FramesOutsideTheirStates : Prop :=
  (∀ (i : Instr) (tagged : Bool) (s : State), i.port = .request tagged → s.engine ≠ .send → exec i s = .refused .noSendStep) ∧
  ∀ (i : Instr) (s : State), i.port = .ack → s.engine ≠ .recvWait → exec i s = .next s

/-- R223, R225, R230, R96, R97: the engine's turn in SEND of a stream sends the chunk's frame, with START on the first chunk, END on the final one and
RETRY on a resend, each where the caller asked for it; the payload is the bytes the chunk's start put into the send buffer. -/
def Obligations.ChunkSendCarriesItsFifoOp : Prop :=
  ∀ s : State, nextMove s = .engine → s.engine = .send → Bounds s →
    let fop : Byte := BitVec.ofNat 8 ((if s.c.first && s.q.start then 1 else 0) + (if s.k.final && s.q.endf then 2 else 0) +
      (if s.k.resend && s.q.retryEn then 4 else 0))
    let sent (f : List Byte) : State :=
      { popMove s with txbuf := f ++ s.txbuf.drop f.length, txlen := f.length
                       outstanding := some (.send f f.length s.q.T), engine := .sendWait }
    (s.q.code = 0x04 → step s = .next (sent (frameOf (hintByte s.q)
      ([BitVec.ofNat 8 (6 + s.k.size), 0x04, fop] ++ le32 s.q.addr ++ (s.txbuf.drop (payloadOffset s.q)).take s.k.size)))) ∧
    (s.q.code = 0x08 → step s = .next (sent (frameOf (hintByte s.q)
      ([7, 0x08, fop] ++ le32 s.q.addr ++ [BitVec.ofNat 8 s.k.size]))))

/-- R193, R166: the engine's turn in SEND of a register command sends the bytes of the send buffer, the same on every attempt, and they are the
frame of the latched request. -/
def Obligations.RegisterSendRepeatsTheSameFrame : Prop :=
  ∀ s : State, Inv s → nextMove s = .engine → s.engine = .send → isStream s = false →
    step s = .next { popMove s with outstanding := some (.send (s.txbuf.take s.txlen) s.txlen s.q.T), engine := .sendWait } ∧
    ((s.q.code = 0x01 ∧ ∃ payload, payload.length = s.q.size.toNat ∧ s.txbuf.take s.txlen =
        frameOf (hintByte s.q) ([BitVec.ofNat 8 (5 + payload.length), 0x01] ++ le32 s.q.addr ++ payload)) ∨
      (s.q.code = 0x02 ∧ s.txbuf.take s.txlen = frameOf (hintByte s.q) ([6, 0x02] ++ le32 s.q.addr ++ [s.q.size.setWidth 8])))

/-- R194, R226, R195, R227, R143: the answer to a send: the full count goes on to the receive; any other count is a failed attempt of the send phase. -/
def Obligations.SendAnswerMovesOnOrFails : Prop :=
  ∀ (r : Word) (d : List Byte) (s : State), nextMove s = .response r d → s.engine = .sendWait →
    (r.toInt = s.txlen → step s = .next { popMove s with outstanding := none, engine := .recv }) ∧
    (r.toInt ≠ s.txlen → step s = .next (sendFailed { popMove s with outstanding := none }))

/-- R196, R228, R354: the engine's turn in RECV issues the receive of `RXN` bytes with the effective timeout; in every state that waits for
another agent the engine has no step of its own. -/
def Obligations.EngineTurnReceivesOrWaits : Prop :=
  ∀ s : State, nextMove s = .engine →
    (s.engine = .recv → step s = .next { popMove s with outstanding := some (.recv s.rxn s.q.T), engine := .recvWait }) ∧
    (s.engine = .idle ∨ s.engine = .sendWait ∨ s.engine = .recvWait ∨ s.engine = .cbWait ∨ s.engine = .ctlWait →
      step s = .next (popMove s))

/-! ## Acknowledgements -/

/-- R176 and R177: the four outcomes of an await-ack attempt, from the count, the three checks and the status. -/
def Obligations.AckOutcomeFollowsTheChecks : Prop :=
  ∀ (r : Word) (s : State),
    (decodeAck r s = .tfail ↔ r.toInt ≠ s.rxn) ∧
    (decodeAck r s = .ffail ↔ r.toInt = s.rxn ∧ ¬ Passes s s.rxbuf) ∧
    ∀ st : Word,
      (decodeAck r s = .devErr st ↔ r.toInt = s.rxn ∧ Passes s s.rxbuf ∧ statusOfFrame s.rxbuf = st ∧ st.toInt < 0) ∧
      (decodeAck r s = .ok st ↔ r.toInt = s.rxn ∧ Passes s s.rxbuf ∧ statusOfFrame s.rxbuf = st ∧ 0 ≤ st.toInt)

/-- R98, R170, R197: an `ACK_WRITE` that passes, with a status of 0 or more, ends the `WRITE_REGISTER` with that status and sets `BYTES_DONE`;
whatever its nonzero `L` (R178); no buffer byte changes. -/
def Obligations.AckWriteEndsTheWrite : Prop :=
  ∀ (len : Byte) (st : Word) (s : State), s.engine = .recvWait → s.q.code = 0x01 → s.rxn = 7 → s.expack = 0x81 →
    len ≠ 0 → 0 ≤ st.toInt →
    let f := [len, 0x81] ++ le32 st ++ [crc8 ([len, 0x81] ++ le32 st)]
    exec (.ackWrite len st (crc8 ([len, 0x81] ++ le32 st))) s = .next (ended st { received f s with bytesDone := s.q.size })

/-- R99, R171, R197, R64: an `ACK_READ` that passes, with a status of 0 or more, writes its data to the caller's buffer, and no other byte,
and ends the `READ_REGISTER` with that status. -/
def Obligations.AckReadFillsTheBuffer : Prop :=
  ∀ (len : Byte) (st : Word) (data : List Byte) (s : State), s.engine = .recvWait → s.q.code = 0x02 → s.expack = 0x82 →
    s.rxn = data.length + 7 → s.rxn ≤ 248 → s.q.size.toNat = data.length → len ≠ 0 → 0 ≤ st.toInt →
    s.bufmem.wf = true → s.q.ptr.toNat + data.length ≤ 4294967296 → rangeBacked s s.q.ptr data.length = true →
    let f := [len, 0x82] ++ le32 st ++ data ++ [crc8 ([len, 0x82] ++ le32 st ++ data)]
    ∃ m, StoredAt s.bufmem m s.q.ptr.toNat data ∧
      exec (.ackRead len st data (crc8 ([len, 0x82] ++ le32 st ++ data))) s =
        .next (ended st { received f s with bufmem := m, bytesDone := s.q.size })

/-- R100, R172, R228, R231, R233, R235, R236, R239: an `ACK_WRITE_FIFO` that passes, with a status of 0 or more, counts the whole chunk as moved; then the
callback is called, or the stream ends with that status (at its end, or on a warning), or the next chunk opens. No buffer byte changes. -/
def Obligations.AckWriteFifoAcceptsTheChunk : Prop :=
  ∀ (len : Byte) (st : Word) (s : State), s.engine = .recvWait → s.q.code = 0x04 → s.rxn = 7 → s.expack = 0x84 → s.chunkPending = false →
    len ≠ 0 → 0 ≤ st.toInt →
    let c := crc8 ([len, 0x84] ++ le32 st)
    let u := chunkAccepted st s.k.size (received ([len, 0x84] ++ le32 st ++ [c]) s)
    (s.q.cbEn = true → exec (.ackWriteFifo len st c) s = .next { u with chunkPending := true, engine := .cbWait }) ∧
    (s.q.cbEn = false → u.e.pending = true → exec (.ackWriteFifo len st c) s = .next (ended st u)) ∧
    (s.q.cbEn = false → u.e.pending = false → rangeBacked s (u.q.ptr + u.c.offset) (pieceOf u.c.remaining) = true →
      exec (.ackWriteFifo len st c) s = .next (writeChunkOpened u))

/-- R101, R173, R228, R231 to R236, R239: an `ACK_READ_FIFO` that passes, with a status of 0 or more: the empty status or a count of 0 ends the stream with 0
and moves nothing; otherwise its bytes, and no others, are written at the cursor, which advances by their number; then the callback is called,
or the stream ends with that status, or the next chunk opens. The bytes after the CRC are not looked at. -/
def Obligations.AckReadFifoAcceptsTheChunk : Prop :=
  ∀ (len : Byte) (st : Word) (data rest : List Byte) (s : State), s.engine = .recvWait → s.q.code = 0x08 → s.expack = 0x88 →
    s.rxn = data.length + rest.length + 8 → s.rxn ≤ 248 → data.length ≤ s.k.size → s.chunkPending = false →
    len ≠ 0 → 0 ≤ st.toInt →
    let body := [len, 0x88] ++ le32 st ++ [BitVec.ofNat 8 data.length] ++ data
    let v := received (body ++ [crc8 body] ++ rest) s
    let u := chunkAccepted st data.length v
    (st = 1 ∨ data = [] → exec (.ackReadFifo len st data (crc8 body) rest) s = .next (ended 0 v)) ∧
    (st ≠ 1 → data ≠ [] → s.bufmem.wf = true → (s.q.ptr + s.c.offset).toNat + data.length ≤ 4294967296 →
      rangeBacked s (s.q.ptr + s.c.offset) data.length = true →
      ∃ m, StoredAt s.bufmem m (s.q.ptr + s.c.offset).toNat data ∧
        (s.q.cbEn = true → exec (.ackReadFifo len st data (crc8 body) rest) s =
          .next { u with bufmem := m, chunkPending := true, engine := .cbWait }) ∧
        (s.q.cbEn = false → u.e.pending = true → exec (.ackReadFifo len st data (crc8 body) rest) s =
          .next (ended st { u with bufmem := m })) ∧
        (s.q.cbEn = false → u.e.pending = false → exec (.ackReadFifo len st data (crc8 body) rest) s =
          .next (readChunkOpened { u with bufmem := m })))

/-- R179, R86, R102: a frame with the ack byte 0xC0 is a framing failure whatever its other bytes are, its status is not taken,
and an `ACK_ERROR` of the length asked for is handled as one failed attempt, with the last status as before. -/
def Obligations.AckErrorIsNeverAccepted : Prop :=
  (∀ (r : Word) (s : State), s.expack ≠ 0xC0 → s.rxbuf.getD 1 0 = 0xC0 → r.toInt = s.rxn → decodeAck r s = .ffail) ∧
  ∀ (len : Byte) (st : Word) (rest : List Byte) (s : State), s.engine = .recvWait → s.expack ≠ 0xC0 → s.rxn ≤ 248 →
    s.rxn = rest.length + 6 →
    exec (.ackError len st rest) s = .next (ackFailed (received ([len, 0xC0] ++ le32 st ++ rest) s))

/-- R143, R196, R227, R64, R198: an acknowledgement of any type that is not accepted is one failed await-ack attempt: of another length than was asked for,
failing a check, or with a negative status, which alone is kept as the last status. It writes no buffer byte. -/
def Obligations.RejectedAckIsAFailedAttempt : Prop :=
  ∀ (i : Instr) (s : State), i.port = .ack → i.wf = true → s.engine = .recvWait →
    let v := received (encode i) s
    ((encode i).length ≠ s.rxn → exec i s = .next (ackFailed { s with outstanding := none })) ∧
    ((encode i).length = s.rxn → ¬ Passes v v.rxbuf → exec i s = .next (ackFailed v)) ∧
    ((encode i).length = s.rxn → Passes v v.rxbuf → (statusOfFrame v.rxbuf).toInt < 0 →
      exec i s = .next (ackFailed { v with ls := { valid := true, value := statusOfFrame v.rxbuf } }))

/-- R142 to R144, R196, R228: an answer to a receive with another count than was asked for is a failed attempt and its bytes are not looked at;
bytes of the right count that fail a check are one too, whether or not they are a frame of the table. -/
def Obligations.FailedReceiveIsAFailedAttempt : Prop :=
  ∀ (r : Word) (d : List Byte) (s : State), nextMove s = .response r d → s.engine = .recvWait →
    (r.toInt ≠ s.rxn → step s = .next (ackFailed { popMove s with outstanding := none })) ∧
    (r.toInt = s.rxn → d.length = s.rxn → ¬ Passes s (d ++ s.rxbuf.drop d.length) →
      step s = .next (ackFailed (received d (popMove s))))

/-! ## The retry policy -/

/-- R262 to R265: one failed attempt arms a record that is not armed and otherwise counts a slot when the elapsed time, modulo 2^32, exceeds the
timeout strictly; the phase is over when the slots reach the budget; a fresh record never ends a phase at its first failure; with the
largest timeout no slot is ever counted (R269). -/
def Obligations.RetryCountsElapsedWindows : Prop :=
  (∀ (now T : Word) (ph : Phase), chargePhase now T ph = afterFailure now T ph) ∧
  (∀ (R : Word) (ph : Phase), phaseOver R ph = true ↔ R.toNat ≤ ph.slots.toNat) ∧
  (∀ (now T R : Word) (ph : Phase), ph.slots = 0 → ph.armed = false → R ≠ 0 → phaseOver R (chargePhase now T ph) = false) ∧
  ∀ (now : Word) (ph : Phase), (chargePhase now 0xFFFFFFFF ph).slots = ph.slots

/-- R266: the latency bound. The failures charged to a fresh record come at times `f 0, f 1, …`, each at most `g` ms after the one before it.
If the phase is first over at failure `n`, then `f 0 + R·(T+1) ≤ f n ≤ f 0 + R·(T+g)`; and it is over by the first failure at or after the upper bound. -/
def Obligations.RetryLatencyIsBounded : Prop :=
  ∀ (T R : Word) (ph : Phase) (g : Nat) (f : Nat → Nat), ph.slots = 0 → ph.armed = false → 0 < R.toNat → 1 ≤ g →
    T.toNat + g < 4294967296 → (∀ j, f j ≤ f (j + 1) ∧ f (j + 1) ≤ f j + g) →
    let after (n : Nat) : Phase := ((List.range (n + 1)).map f).foldl (fun p t => chargePhase (BitVec.ofNat 32 t) T p) ph
    (∀ n, phaseOver R (after n) = true → (∀ j, j < n → phaseOver R (after j) = false) →
      f 0 + R.toNat * (T.toNat + 1) ≤ f n ∧ f n ≤ f 0 + R.toNat * (T.toNat + g)) ∧
    ∀ n, f 0 + R.toNat * (T.toNat + g) ≤ f n → ∃ j, j ≤ n ∧ phaseOver R (after j) = true

/-! ## The whole machine -/

/-- R32, R347: RESULT changes only in a step that ends a command, or at reset. -/
def Obligations.ResultChangesOnlyAtAFinish : Prop :=
  ∀ s t : State, step s = .next t → t.result ≠ s.result →
    (t.engine = .idle ∧ t.busy = false ∧ t.done = true ∧ t.chunkPending = false) ∨ (nextMove s = .rst ∧ t.result = 0)

/-- R41, R79: the latched request changes only in the step of an accepted GO, which copies the request registers, or at reset. -/
def Obligations.LatchedRequestChangesOnlyAtGo : Prop :=
  ∀ s t : State, step s = .next t → t.q ≠ s.q →
    nextMove s = .rst ∨
    (s.busy = false ∧ (∃ w : Word, nextMove s = .hostWrite 32 0x1C w ∧ w.getLsbD 0 = true) ∧ t.q = latched s.cmd (requestOf s))

/-- R61, R64, R65: from a state that meets the invariant, a step that is not the host's own store changes a buffer byte only inside the buffer of a running
`READ_REGISTER` or `READ_FIFO`, and only on taking the answer to its receive. -/
def Obligations.EngineWritesOnlyInsideTheBuffer : Prop :=
  ∀ s t : State, Inv s → step s = .next t → (∀ a v, nextMove s ≠ .bufStore a v) → ∀ a : Nat, memGet t.bufmem a ≠ memGet s.bufmem a →
    s.busy = true ∧ s.engine = .recvWait ∧ (s.q.code = 0x02 ∨ s.q.code = 0x08) ∧
      s.q.ptr.toNat ≤ a ∧ a < s.q.ptr.toNat + s.q.size.toNat

/-- R63, R65: no step depends on a byte outside the command's buffer: with any other canonical memory that agrees with this one on the buffer of the running command,
or of the command in the registers while none runs, every step that is not a host access to the buffer memory goes the same way, and writes the same bytes. -/
def Obligations.EngineReadsOnlyInsideTheBuffer : Prop :=
  ∀ (s t : State) (m : Memory), Inv s → m.wf = true → step s = .next t → (∀ a, nextMove s ≠ .bufLoad a) → (∀ a v, nextMove s ≠ .bufStore a v) →
    (∀ a : Nat, (if s.busy then s.q.ptr else s.dataPtr).toNat ≤ a →
      a < (if s.busy then s.q.ptr else s.dataPtr).toNat + (if s.busy then s.q.size else s.dataSize).toNat →
      memGet m a = memGet s.bufmem a) →
    ∃ m', step { s with bufmem := m } = .next { t with bufmem := m' } ∧
      ∀ a : Nat, memGet m' a = if memGet t.bufmem a = memGet s.bufmem a then memGet m a else memGet t.bufmem a

/-- From a state that meets the invariant, every instruction but `ACK_READ` and `ACK_READ_FIFO` leaves every byte of the buffer memory as it was (R61, R64). -/
def Obligations.OnlyReadAcksWriteMemory : Prop :=
  ∀ (i : Instr) (s t : State), Inv s → exec i s = .next t →
    (∀ len st data crc, i ≠ .ackRead len st data crc) → (∀ len st data crc rest, i ≠ .ackReadFifo len st data crc rest) →
    ∀ a : Nat, memGet t.bufmem a = memGet s.bufmem a

/-- R146, R355: from a state that meets the invariant, a step never replaces one outstanding request by another: it keeps it or takes its answer,
and a new one is issued only from SEND, from RECV, or by the GO of a `SET_CHANNEL_TIMEOUT`. -/
def Obligations.OneTransportRequestAtATime : Prop :=
  ∀ s t : State, Inv s → step s = .next t →
    (s.outstanding ≠ none → t.outstanding = s.outstanding ∨ t.outstanding = none) ∧
    (s.outstanding = none → t.outstanding ≠ none →
      s.engine = .send ∨ s.engine = .recv ∨
      (s.engine = .idle ∧ s.cmd = 0x10 ∧ ∃ w : Word, nextMove s = .hostWrite 32 0x1C w ∧ w.getLsbD 0 = true))

/-- R235, R248: while a command runs, CHUNKS changes only by one, in a step that accepts a chunk of at least one byte: the cursor's two halves and
`BYTES_DONE` move by the same number of bytes. -/
def Obligations.EveryAcceptedChunkMakesProgress : Prop :=
  ∀ s t : State, Inv s → s.busy = true → nextMove s ≠ .rst → step s = .next t → t.chunks ≠ s.chunks →
    t.chunks.toNat = s.chunks.toNat + 1 ∧ s.engine = .recvWait ∧ isStream s = true ∧
    t.c.remaining.toNat < s.c.remaining.toNat ∧
    t.c.offset.toNat = s.c.offset.toNat + (s.c.remaining.toNat - t.c.remaining.toNat) ∧ t.bytesDone = t.c.offset

/-- R260, R342: the time agent moves `TIME_MS` on, modulo 2^32, and changes nothing else, and an answer to a request that a reset abandoned
changes nothing. That any other answer while no request is outstanding changes nothing either is the model's choice (log 4): by R140
and R312 the transport makes no such answer, and no rule says what one would do. -/
def Obligations.TimeAndLateAnswers : Prop :=
  (∀ (s : State) (ms : Nat), nextMove s = .time ms →
    ∃ v : Word, v.toNat = (s.timeMs.toNat + ms) % 4294967296 ∧ step s = .next { popMove s with timeMs := v }) ∧
  (∀ (s : State) (r : Word) (d : List Byte), nextMove s = .lateResponse r d → step s = .next (popMove s)) ∧
  ∀ (s : State) (r : Word) (d : List Byte), nextMove s = .response r d → Inv s → s.outstanding = none → step s = .next (popMove s)
end

