-- ==== Sys2Proof/Laws/Codec.lean ====
section
/-! SUPPORT. The small lemmas of the codec: byte order, buffers, the register block, and the shape of a request frame. -/

namespace Sys2Proof.Machine

/-! ## Bytes -/

theorem s32le_bytes (v : Word) :
    s32le (v.extractLsb' 0 8) (v.extractLsb' 8 8) (v.extractLsb' 16 8) (v.extractLsb' 24 8) = v := by
  apply BitVec.eq_of_getLsbD_eq
  intro i hi
  simp only [s32le, BitVec.getLsbD_or, BitVec.getLsbD_setWidth, BitVec.getLsbD_shiftLeft, BitVec.getLsbD_extractLsb']
  interval_cases i <;> simp

theorem le32_s32le (a b c d : Byte) : le32 (s32le a b c d) = [a, b, c, d] := by
  simp only [le32, List.cons.injEq, and_true]
  refine ⟨?_, ?_, ?_, ?_⟩ <;>
  · apply BitVec.eq_of_getLsbD_eq
    intro i hi
    simp only [s32le, BitVec.getLsbD_or, BitVec.getLsbD_setWidth, BitVec.getLsbD_shiftLeft, BitVec.getLsbD_extractLsb']
    interval_cases i <;> simp

@[simp] theorem le32_length (v : Word) : (le32 v).length = 4 := rfl

/-- Overwriting inside a buffer keeps its length. -/
theorem overwrite_length (buf bs : List Byte) (at_ : Nat) (h : at_ + bs.length ≤ buf.length) :
    (overwrite buf at_ bs).length = buf.length := by
  simp only [overwrite, List.length_append, List.length_take, List.length_drop]
  omega

/-- The bytes just written at the start of a buffer are the ones read there. -/
theorem overwrite_take (buf bs : List Byte) : (overwrite buf 0 bs).take bs.length = bs := by
  simp [overwrite]

/-- The bytes just written at an offset of a buffer are the ones read there. -/
theorem overwrite_slice (buf bs : List Byte) (at_ : Nat) (h : at_ ≤ buf.length) :
    ((overwrite buf at_ bs).drop at_).take bs.length = bs := by
  have hlen : (buf.take at_).length = at_ := by simp; omega
  simp only [overwrite, List.append_assoc]
  rw [List.drop_append, hlen]
  simp

/-! ## The register block -/

/-- A word in front of little-endian words is the first of them. -/
theorem wordsOf_le32 (v : Word) (rest : List Byte) : wordsOf (le32 v ++ rest) = (wordsOf rest).map (v :: ·) := by
  simp [le32, wordsOf, s32le_bytes]

theorem wordsOf_single (v : Word) : wordsOf (le32 v) = some [v] := by
  simpa [wordsOf] using wordsOf_le32 v []

theorem wordsOf_requestBlock (code : Byte) (req : Request) :
    wordsOf (requestBlock code req) =
      some [code.setWidth 32, req.addr, req.ptr, req.size, req.timeout, req.retries, req.flags.setWidth 32] := by
  simp only [requestBlock, List.append_assoc, wordsOf_le32, wordsOf_single, Option.map_some]

/-- The block of registers holds the command its CODE names, with every operand (R80, R281). -/
theorem decodeBlock_requestBlock (code : Byte) (req : Request) (i : Instr) (h : commandOf code req = some i) :
    decodeBlock (requestBlock code req) = .ok i := by
  have hc : code.setWidth 32 < (256 : Word) := by
    have := code.isLt
    have h256 : (256 : Word).toNat = 256 := rfl
    simp only [BitVec.lt_def, BitVec.toNat_setWidth, h256]
    omega
  have hf : req.flags.setWidth 32 < (32 : Word) := by
    have := req.flags.isLt
    have h32 : (32 : Word).toNat = 32 := rfl
    simp only [BitVec.lt_def, BitVec.toNat_setWidth, h32]
    omega
  have hcode : (code.setWidth 32).setWidth 8 = code := by simp
  have hflags : (req.flags.setWidth 32).setWidth 5 = req.flags := by simp
  simp only [decodeBlock, wordsOf_requestBlock, hc, hf, and_self, if_true, hcode, hflags]
  rw [show (⟨req.addr, req.ptr, req.size, req.timeout, req.retries, req.flags⟩ : Request) = req from rfl, h]

/-- The words of a byte sequence give the bytes back. -/
theorem bytes_of_wordsOf (bs : List Byte) (ws : List Word) (h : wordsOf bs = some ws) : bs = ws.flatMap le32 := by
  induction bs using wordsOf.induct generalizing ws with
  | case1 => simp only [wordsOf, Option.some.injEq] at h; subst h; rfl
  | case2 a b c d rest ih =>
    simp only [wordsOf, Option.map_eq_some_iff] at h
    obtain ⟨ws', h', rfl⟩ := h
    simp [ih ws' h', le32_s32le]
  | case3 bs h1 h2 =>
    rw [wordsOf] at h
    · cases h
    · exact h1
    · exact h2

/-! ## Request frames -/

@[simp] theorem sealRequest_length (hint : Option Byte) (opcode : Byte) (body : List Byte) :
    (sealRequest hint opcode body).length = hint.toList.length + body.length + 3 := by
  simp only [sealRequest, List.length_append, List.length_cons, List.length_nil]
  omega

/-- A sealed frame from its length byte on passes the checks of R89 and R90 and yields its body. -/
theorem decodeSealed_seal (hint : Option Byte) (opcode : Byte) (body : List Byte) (h : body.length < 255) :
    decodeSealed hint (BitVec.ofNat 8 (body.length + 1) :: opcode :: body ++
      [crc8 (BitVec.ofNat 8 (body.length + 1) :: opcode :: body)]) = decodeBody hint opcode body := by
  have hl : (BitVec.ofNat 8 (body.length + 1)).toNat = body.length + 1 := by
    simp only [BitVec.toNat_ofNat]; omega
  simp [decodeSealed, hl]

theorem decodeRequest_seal (hint : Option Byte) (opcode : Byte) (body : List Byte) (h : body.length < 255) :
    decodeRequest hint.isSome (sealRequest hint opcode body) = decodeBody hint opcode body := by
  cases hint with
  | none => simpa [decodeRequest, sealRequest] using decodeSealed_seal none opcode body h
  | some v => simpa [decodeRequest, sealRequest] using decodeSealed_seal (some v) opcode body h

/-- A frame the decoder takes from its length byte on is the sealed frame of its body. -/
theorem decodeSealed_inv (hint : Option Byte) (f : List Byte) (i : Instr) (h : decodeSealed hint f = .ok i) :
    ∃ opcode body, body.length < 255 ∧ decodeBody hint opcode body = .ok i ∧
      f = BitVec.ofNat 8 (body.length + 1) :: opcode :: body ++ [crc8 (BitVec.ofNat 8 (body.length + 1) :: opcode :: body)] := by
  unfold decodeSealed at h
  split at h
  · rename_i len opcode rest
    split at h
    · rename_i hlen
      split at h
      · rename_i hcrc
        obtain ⟨body, hb⟩ := List.getLast?_eq_some_iff.mp hcrc
        have hd : rest.dropLast = body := by rw [hb]; simp
        have hr : rest.length = body.length + 1 := by rw [hb]; simp
        have hlt : len.toNat < 256 := len.isLt
        have hl : len = BitVec.ofNat 8 (body.length + 1) := by
          apply BitVec.eq_of_toNat_eq
          simp only [BitVec.toNat_ofNat]; omega
        refine ⟨opcode, body, by omega, by rw [← hd]; exact h, ?_⟩
        rw [hd] at hb
        rw [hb, ← hl]
        simp
      · cases h
    · cases h
  · cases h

/-! ## What the decoder accepts -/

/-- What a CMD.CODE that names a command says of it. -/
theorem commandOf_inv (code : Byte) (req : Request) (i : Instr) (h : commandOf code req = some i) :
    i.wf = true ∧ i.port = .cmd ∧ encode i = requestBlock code req := by
  unfold commandOf at h
  split at h
  · rename_i hc; simp only [Option.some.injEq] at h; subst h; subst hc; exact ⟨rfl, rfl, rfl⟩
  split at h
  · rename_i hc; simp only [Option.some.injEq] at h; subst h; subst hc; exact ⟨rfl, rfl, rfl⟩
  split at h
  · rename_i hc; simp only [Option.some.injEq] at h; subst h; subst hc; exact ⟨rfl, rfl, rfl⟩
  split at h
  · rename_i hc; simp only [Option.some.injEq] at h; subst h; subst hc; exact ⟨rfl, rfl, rfl⟩
  split at h
  · rename_i hc; simp only [Option.some.injEq] at h; subst h; subst hc; exact ⟨rfl, rfl, rfl⟩
  cases h

/-- A register block that decodes is the block of the command it decodes to. -/
theorem decodeBlock_inv (bs : List Byte) (i : Instr) (h : decodeBlock bs = .ok i) :
    i.wf = true ∧ i.port = .cmd ∧ encode i = bs := by
  unfold decodeBlock at h
  split at h
  · rename_i cmd a p z t r f hw
    split at h
    · rename_i hlt
      split at h
      · rename_i j hj
        simp only [Except.ok.injEq] at h
        subst h
        obtain ⟨h1, h2, h3⟩ := commandOf_inv _ _ _ hj
        refine ⟨h1, h2, ?_⟩
        rw [h3, bytes_of_wordsOf _ _ hw]
        have e1 : (cmd.setWidth 8).setWidth 32 = cmd := by
          have := hlt.1
          apply BitVec.eq_of_toNat_eq
          have h2 : cmd.toNat < 256 := this
          simp; omega
        have e2 : (f.setWidth 5).setWidth 32 = f := by
          have := hlt.2
          apply BitVec.eq_of_toNat_eq
          have h2 : f.toNat < 32 := this
          simp; omega
        simp only [requestBlock, e1, e2]
        simp
      · cases h
    · cases h
  · cases h

/-- The fields of a request frame that decode are those of a well-formed instruction, whose frame is their sealed frame. -/
theorem decodeBody_inv (hint : Option Byte) (op : Byte) (body : List Byte) (i : Instr) (h : decodeBody hint op body = .ok i) :
    i.wf = true ∧ i.port = .request hint.isSome ∧ encode i = sealRequest hint op body := by
  unfold decodeBody at h
  simp only at h
  split at h
  · rename_i ho; subst ho
    split at h
    · rename_i a b c d pl
      split at h
      · rename_i hw
        cases h
        exact ⟨hw, rfl, by simp [encode, le32_s32le]⟩
      · cases h
    · cases h
  split at h
  · rename_i ho; subst ho
    split at h
    · rename_i a b c d pl
      split at h
      · rename_i hw
        cases h
        exact ⟨hw, rfl, by simp [encode, le32_s32le]⟩
      · cases h
    · cases h
  split at h
  · rename_i ho; subst ho
    split at h
    · rename_i a b c d pl
      split at h
      · rename_i hw
        cases h
        exact ⟨hw, rfl, by simp [encode, le32_s32le]⟩
      · cases h
    · cases h
  split at h
  · rename_i ho; subst ho
    split at h
    · rename_i a b c d pl
      split at h
      · rename_i hw
        cases h
        exact ⟨hw, rfl, by simp [encode, le32_s32le]⟩
      · cases h
    · cases h
  cases h

/-- Bytes that decode as a request frame are the encoding of that well-formed frame. -/
theorem decodeRequest_inv (tagged : Bool) (bs : List Byte) (i : Instr) (h : decodeRequest tagged bs = .ok i) :
    i.wf = true ∧ i.port = .request tagged ∧ encode i = bs := by
  unfold decodeRequest at h
  split at h
  · rename_i ht
    split at h
    · rename_i hint f
      obtain ⟨op, body, _, hb, rfl⟩ := decodeSealed_inv _ _ _ h
      obtain ⟨h1, h2, h3⟩ := decodeBody_inv _ _ _ _ hb
      exact ⟨h1, by simp [h2, ht], by rw [h3]; rfl⟩
    · cases h
  · rename_i ht
    obtain ⟨op, body, _, hb, rfl⟩ := decodeSealed_inv _ _ _ h
    obtain ⟨h1, h2, h3⟩ := decodeBody_inv _ _ _ _ hb
    exact ⟨h1, by simp [h2, ht], by rw [h3]; rfl⟩

/-- Bytes that decode as an acknowledgement are the encoding of that well-formed frame. -/
theorem decodeAckFrame_inv (bs : List Byte) (i : Instr) (h : decodeAckFrame bs = .ok i) :
    i.wf = true ∧ i.port = .ack ∧ encode i = bs := by
  unfold decodeAckFrame at h
  split at h
  · rename_i hl
    split at h
    · rename_i len ack s0 s1 s2 s3 body
      simp only [List.length_cons, Config.rxbufSize] at hl
      unfold decodeAckBody at h
      split at h
      · rename_i ho; subst ho
        split at h
        · cases h; exact ⟨rfl, rfl, by simp [encode, le32_s32le]⟩
        · cases h
      split at h
      · rename_i ho; subst ho
        split at h
        · rename_i crc hc
          obtain ⟨d, rfl⟩ := List.getLast?_eq_some_iff.mp hc
          cases h
          simp at hl
          refine ⟨by simp [Instr.wf]; omega, rfl, by simp [encode, le32_s32le]⟩
        · cases h
      split at h
      · rename_i ho; subst ho
        split at h
        · cases h; exact ⟨rfl, rfl, by simp [encode, le32_s32le]⟩
        · cases h
      split at h
      · rename_i ho; subst ho
        unfold decodeCounted at h
        split at h
        · rename_i count f
          split at h
          · rename_i crc rest hd
            cases h
            have hlt := count.isLt
            have hcl : count.toNat < f.length := by
              by_contra hc
              rw [List.drop_eq_nil_of_le (by omega)] at hd
              cases hd
            have hf : f = f.take count.toNat ++ crc :: rest := by rw [← hd, List.take_append_drop]
            have hl2 : (f.take count.toNat).length = count.toNat := by simp; omega
            have hc8 : BitVec.ofNat 8 (f.take count.toNat).length = count := by
              rw [hl2]; simp
            have hlen : f.length = count.toNat + (rest.length + 1) := by
              conv_lhs => rw [hf]
              rw [List.length_append, hl2, List.length_cons]
            refine ⟨?_, rfl, ?_⟩
            · simp only [List.length_cons] at hl
              simp only [Instr.wf, hl2, Config.rxbufSize, decide_eq_true_eq]; omega
            · simp only [encode, hc8, le32_s32le]
              conv_rhs => rw [hf]
              simp
          · cases h
        · cases h
      split at h
      · rename_i ho; subst ho
        cases h
        refine ⟨by simp [Instr.wf]; omega, rfl, by simp [encode, le32_s32le]⟩
      cases h
    · cases h
  · cases h
end Sys2Proof.Machine
end

