-- ==== Sys2Proof/Laws/Memory.lean ====
section
/-! SUPPORT. The laws of buffer memory: read after write, the canonical form, and what a range read or write does. -/

namespace Sys2Proof.Machine

/-! ## One byte -/

/-- Below the first address of a memory in canonical form nothing is listed. -/
theorem memGet_below (m : Memory) (lo a : Nat) (h : memWfFrom lo m = true) (ha : a < lo) : memGet m a = unlistedByte := by
  induction m generalizing lo with
  | nil => rfl
  | cons x m ih =>
    obtain ⟨b, v⟩ := x
    simp only [memWfFrom, Bool.and_eq_true, decide_eq_true_eq] at h
    rw [memGet, if_neg (by omega)]
    exact ih (b + 1) h.2 (by omega)

/-- A memory in canonical form from an address on is in canonical form from any lower address on. -/
theorem memWfFrom_mono (m : Memory) (lo lo' : Nat) (h : memWfFrom lo m = true) (hl : lo' ≤ lo) : memWfFrom lo' m = true := by
  cases m with
  | nil => rfl
  | cons x m =>
    obtain ⟨b, v⟩ := x
    simp only [memWfFrom, Bool.and_eq_true, decide_eq_true_eq] at h ⊢
    exact ⟨⟨⟨by omega, h.1.1.2⟩, h.1.2⟩, h.2⟩

theorem memGet_consCell (m : Memory) (a b : Nat) (v : Byte) (h : memWfFrom (a + 1) m = true) :
    memGet (consCell a v m) b = if a = b then v else memGet m b := by
  unfold consCell
  split
  · rename_i hv
    split
    · rename_i hab
      rw [memGet_below m (a + 1) b h (by omega), hv]
    · rfl
  · rfl

theorem memWfFrom_consCell (m : Memory) (lo a : Nat) (v : Byte) (ha : a < 4294967296) (hlo : lo ≤ a)
    (h : memWfFrom (a + 1) m = true) : memWfFrom lo (consCell a v m) = true := by
  unfold consCell
  split
  · exact memWfFrom_mono m (a + 1) lo h (by omega)
  · rename_i hv
    simp [memWfFrom, ha, hlo, hv, h]

/-- Read after write, at every address (R62, R72). -/
theorem memGet_memSet_from (m : Memory) (lo a b : Nat) (v : Byte) (h : memWfFrom lo m = true) :
    memGet (memSet m a v) b = if a = b then v else memGet m b := by
  induction m generalizing lo with
  | nil => exact memGet_consCell [] a b v rfl
  | cons x m ih =>
    obtain ⟨c, w⟩ := x
    have h' := h
    simp only [memWfFrom, Bool.and_eq_true, decide_eq_true_eq] at h
    unfold memSet
    split
    · rename_i hac
      refine memGet_consCell _ a b v ?_
      simp only [memWfFrom, Bool.and_eq_true, decide_eq_true_eq]
      exact ⟨⟨⟨by omega, h.1.1.2⟩, h.1.2⟩, h.2⟩
    · split
      · rename_i hac
        subst hac
        rw [memGet_consCell m a b v h.2]
        by_cases hab : a = b <;> simp [memGet, hab]
      · rename_i hac
        have := ih (c + 1) h.2
        by_cases hcb : c = b
        · subst hcb; simp [memGet, hac]
        · simp [memGet, hcb, this]

/-- A write keeps the canonical form. -/
theorem memWfFrom_memSet (m : Memory) (lo a : Nat) (v : Byte) (ha : a < 4294967296) (hlo : lo ≤ a)
    (h : memWfFrom lo m = true) : memWfFrom lo (memSet m a v) = true := by
  induction m generalizing lo with
  | nil => exact memWfFrom_consCell [] lo a v ha hlo rfl
  | cons x m ih =>
    obtain ⟨c, w⟩ := x
    simp only [memWfFrom, Bool.and_eq_true, decide_eq_true_eq] at h
    unfold memSet
    split
    · refine memWfFrom_consCell _ lo a v ha hlo ?_
      simp only [memWfFrom, Bool.and_eq_true, decide_eq_true_eq]
      exact ⟨⟨⟨by omega, h.1.1.2⟩, h.1.2⟩, h.2⟩
    · split
      · rename_i hac
        subst hac
        exact memWfFrom_consCell m lo a v ha hlo h.2
      · rename_i hac
        simp only [memWfFrom, Bool.and_eq_true, decide_eq_true_eq]
        exact ⟨⟨⟨h.1.1.1, h.1.1.2⟩, h.1.2⟩, ih (c + 1) (by omega) h.2⟩

/-! ## Ranges -/

@[simp] theorem andThen_next {α β : Type} (a : α) (f : α → Res β) : andThen (.next a) f = f a := rfl

/-- An operation in sequence answers a value only when both do. -/
theorem andThen_eq_next {α β : Type} {o : Res α} {f : α → Res β} {b : β} (h : andThen o f = .next b) :
    ∃ a, o = .next a ∧ f a = .next b := by
  cases o with
  | next a => exact ⟨a, rfl, h⟩
  | fault r => cases h
  | refused r => cases h

theorem memRead_eq (s : State) (a : Word) (h : isBacked s a = true) : memRead s a = .next (memGet s.bufmem a.toNat) := by
  simp [memRead, h]

@[simp] theorem bufBytes_length (m : Memory) (a : Word) (n : Nat) : (bufBytes m a n).length = n := by
  induction n generalizing a with
  | zero => rfl
  | succ n ih => simp [bufBytes, ih]

/-- A range read answers the bytes that stand there (R63). -/
theorem readBytes_next (s : State) (a : Word) (n : Nat) (bs : List Byte) (h : readBytes s a n = .next bs) :
    bs = bufBytes s.bufmem a n := by
  induction n generalizing a bs with
  | zero => simp only [readBytes, Host.Outcome.next.injEq] at h; exact h.symm
  | succ n ih =>
    obtain ⟨v, hv, h⟩ := andThen_eq_next h
    obtain ⟨vs, hvs, h⟩ := andThen_eq_next h
    simp only [Host.Outcome.next.injEq] at h
    subst h
    unfold memRead at hv
    split at hv
    · simp only [Host.Outcome.next.injEq] at hv
      rw [bufBytes, hv, ih (a + 1) vs hvs]
    · cases hv

/-- A range read of backed bytes answers them (R62, R63). -/
theorem readBytes_backed (s : State) (a : Word) (n : Nat) (h : rangeBacked s a n = true) :
    readBytes s a n = .next (bufBytes s.bufmem a n) := by
  induction n generalizing a with
  | zero => rfl
  | succ n ih =>
    simp only [rangeBacked, Bool.and_eq_true] at h
    simp only [readBytes, memRead_eq s a h.1, ih (a + 1) h.2, bufBytes, andThen_next]

/-- Writing does not change what is backed. -/
theorem rangeBacked_bufmem (s : State) (m : Memory) (a : Word) (n : Nat) :
    rangeBacked { s with bufmem := m } a n = rangeBacked s a n := by
  induction n generalizing a with
  | zero => rfl
  | succ n ih => simp only [rangeBacked, ih]; rfl

/-- A range write of backed bytes sets them and nothing else (R62, R64). -/
theorem writeBytes_backed (a : Word) (bs : List Byte) (s : State) (h : rangeBacked s a bs.length = true) :
    writeBytes a bs s = .next { s with bufmem := memSetAll s.bufmem a bs } := by
  induction bs generalizing a s with
  | nil => rfl
  | cons v vs ih =>
    simp only [List.length_cons, rangeBacked, Bool.and_eq_true] at h
    simp only [writeBytes, memWrite, h.1, if_true, andThen_next, memSetAll]
    rw [ih (a + 1) _ (by rw [rangeBacked_bufmem]; exact h.2)]

/-- The offset of a byte counted from one address on. -/
theorem succ_offset (a : Word) (j : Nat) : a + BitVec.ofNat 32 (j + 1) = a + 1 + BitVec.ofNat 32 j := by
  rw [Nat.add_comm, BitVec.ofNat_add, BitVec.add_assoc]; rfl

/-- A range read stops at the first unbacked byte (R62, R63). -/
theorem readBytes_unbacked (s : State) (a : Word) (n j : Nat) (hj : j < n)
    (hb : ∀ i, i < j → isBacked s (a + BitVec.ofNat 32 i) = true) (hu : isBacked s (a + BitVec.ofNat 32 j) = false) :
    readBytes s a n = .fault (.unbackedByte (a + BitVec.ofNat 32 j)) := by
  induction n generalizing a j with
  | zero => omega
  | succ n ih =>
    cases j with
    | zero =>
      rw [BitVec.add_zero] at hu ⊢
      simp [readBytes, memRead, hu, andThen]
    | succ j =>
      have h0 : isBacked s a = true := by simpa using hb 0 (by omega)
      simp only [succ_offset] at hu ⊢
      simp only [readBytes, memRead_eq s a h0, andThen_next]
      rw [ih (a + 1) j (by omega) (fun i hi => by rw [← succ_offset]; exact hb (i + 1) (by omega)) hu]
      rfl

/-- A range write stops at the first unbacked byte (R62, R64). -/
theorem writeBytes_unbacked (a : Word) (bs : List Byte) (s : State) (j : Nat) (hj : j < bs.length)
    (hb : ∀ i, i < j → isBacked s (a + BitVec.ofNat 32 i) = true) (hu : isBacked s (a + BitVec.ofNat 32 j) = false) :
    writeBytes a bs s = .fault (.unbackedByte (a + BitVec.ofNat 32 j)) := by
  induction bs generalizing a s j with
  | nil => simp at hj
  | cons v vs ih =>
    cases j with
    | zero =>
      rw [BitVec.add_zero] at hu ⊢
      simp [writeBytes, memWrite, hu, andThen]
    | succ j =>
      have h0 : isBacked s a = true := by simpa using hb 0 (by omega)
      simp only [succ_offset] at hu ⊢
      simp only [writeBytes, memWrite, h0, if_true, andThen_next]
      exact ih (a + 1) _ j (by simpa using hj) (fun i hi => by rw [← succ_offset]; exact hb (i + 1) (by omega)) hu

/-- What a range write can do: the bytes are set and nothing else changes (R64). -/
theorem writeBytes_next (a : Word) (bs : List Byte) (s t : State) (h : writeBytes a bs s = .next t) :
    t = { s with bufmem := memSetAll s.bufmem a bs } := by
  induction bs generalizing a s with
  | nil => simp only [writeBytes, Host.Outcome.next.injEq] at h; subst h; rfl
  | cons v vs ih =>
    obtain ⟨u, hu, h⟩ := andThen_eq_next h
    unfold memWrite at hu
    split at hu
    · simp only [Host.Outcome.next.injEq] at hu
      subst hu
      exact ih _ _ h
    · cases hu

/-- Setting bytes keeps the canonical form. -/
theorem memSetAll_wf (m : Memory) (a : Word) (bs : List Byte) (h : m.wf = true) : (memSetAll m a bs).wf = true := by
  induction bs generalizing m a with
  | nil => exact h
  | cons v vs ih => exact ih _ _ (memWfFrom_memSet m 0 a.toNat v a.isLt (Nat.zero_le _) h)

/-- A byte outside the addresses set reads as before (R65). -/
theorem memGet_memSetAll_outside (m : Memory) (a : Word) (bs : List Byte) (b : Nat) (h : m.wf = true)
    (hr : a.toNat + bs.length ≤ 4294967296) (hb : b < a.toNat ∨ a.toNat + bs.length ≤ b) :
    memGet (memSetAll m a bs) b = memGet m b := by
  induction bs generalizing m a with
  | nil => rfl
  | cons v vs ih =>
    simp only [List.length_cons] at hr hb
    by_cases hz : vs = []
    · subst hz
      simp only [memSetAll]
      rw [memGet_memSet_from m 0 _ _ _ h, if_neg (by simp at hb; omega)]
    · have hpos : 0 < vs.length := List.length_pos_of_ne_nil hz
      have ha : (a + 1).toNat = a.toNat + 1 := by
        rw [BitVec.toNat_add]
        have h1 : (1 : Word).toNat = 1 := rfl
        omega
      simp only [memSetAll]
      rw [ih _ _ (memWfFrom_memSet m 0 a.toNat v a.isLt (Nat.zero_le _) h) (by omega) (by omega),
        memGet_memSet_from m 0 _ _ _ h, if_neg (by omega)]

/-- The bytes set are the ones that stand there afterwards. -/
theorem bufBytes_memSetAll (m : Memory) (a : Word) (bs : List Byte) (h : m.wf = true)
    (hr : a.toNat + bs.length ≤ 4294967296) : bufBytes (memSetAll m a bs) a bs.length = bs := by
  induction bs generalizing m a with
  | nil => rfl
  | cons v vs ih =>
    simp only [List.length_cons] at hr
    have hw := memWfFrom_memSet m 0 a.toNat v a.isLt (Nat.zero_le _) h
    simp only [List.length_cons, bufBytes, memSetAll]
    by_cases hz : vs = []
    · subst hz
      simp [memSetAll, bufBytes, memGet_memSet_from m 0 _ _ _ h]
    · have hpos : 0 < vs.length := List.length_pos_of_ne_nil hz
      have ha : (a + 1).toNat = a.toNat + 1 := by
        rw [BitVec.toNat_add]
        have h1 : (1 : Word).toNat = 1 := rfl
        omega
      rw [ih _ _ hw (by omega), memGet_memSetAll_outside _ _ _ _ hw (by omega) (by omega),
        memGet_memSet_from m 0 _ _ _ h, if_pos rfl]

end Sys2Proof.Machine
end

