-- ==== Sys2Proof/Laws/Ops.lean ====
section
/-! SUPPORT. For each shared operation, once, everything it can do when it answers a next state. -/

namespace Sys2Proof.Machine

/-- A conditional range write sets the bytes or does nothing (R64). -/
theorem writeIf_next (c : Prop) [Decidable c] (a : Word) (bs : List Byte) (s t : State)
    (h : (if c then writeBytes a bs s else .next s) = Host.Outcome.next t) :
    (c ∧ t = { s with bufmem := memSetAll s.bufmem a bs }) ∨ (¬ c ∧ t = s) := by
  split at h
  · exact Or.inl ⟨‹_›, writeBytes_next _ _ _ _ h⟩
  · simp only [Host.Outcome.next.injEq] at h; exact Or.inr ⟨‹_›, h.symm⟩

/-! ## Sizes -/

theorem chunkSize_le (r : Word) : chunkSize r ≤ 240 := by
  unfold chunkSize floor4; split <;> simp_all

theorem chunkSize_le_remaining (r : Word) : chunkSize r ≤ r.toNat := by
  unfold chunkSize floor4; split <;> simp_all; omega

theorem chunkSize_pos (r : Word) (h : r ≠ 0) : 1 ≤ chunkSize r := by
  have : r.toNat ≠ 0 := fun h0 => h (BitVec.eq_of_toNat_eq h0)
  unfold chunkSize floor4; split <;> simp_all; omega

theorem payloadAt_le (q : Latched) : payloadAt q ≤ 8 := by
  unfold payloadAt hintLen; split <;> simp

/-- A 32-bit position moved on by `a` without passing 2^32. -/
theorem toNat_add_ofNat (x : Word) (a : Nat) (h : x.toNat + a < 4294967296) : (x + BitVec.ofNat 32 a).toNat = x.toNat + a := by
  rw [BitVec.toNat_add, BitVec.toNat_ofNat]; omega

/-- A 32-bit count reduced by at most itself. -/
theorem toNat_sub_ofNat (x : Word) (a : Nat) (h : a ≤ x.toNat) : (x - BitVec.ofNat 32 a).toNat = x.toNat - a := by
  have := x.isLt
  rw [BitVec.toNat_sub, BitVec.toNat_ofNat]; omega

/-! ## Chunks -/

/-- What opening a chunk can do (R222). -/
theorem startChunk_next (s t : State) (h : startChunk s = .next t) :
    (s.q.code = 0x04 ∧ t = openChunk (chunkSize s.c.remaining) 7 0x84
      { s with txbuf := overwrite s.txbuf (payloadAt s.q) (bufBytes s.bufmem (chunkAddr s) (chunkSize s.c.remaining)) }) ∨
    (s.q.code ≠ 0x04 ∧ t = openChunk (chunkSize s.c.remaining) (chunkSize s.c.remaining + 8) 0x88 s) := by
  unfold startChunk at h
  simp only at h
  split at h
  · obtain ⟨bs, hbs, h⟩ := andThen_eq_next h
    simp only [Host.Outcome.next.injEq] at h
    rw [readBytes_next _ _ _ _ hbs] at h
    exact Or.inl ⟨‹_›, h.symm⟩
  · simp only [Host.Outcome.next.injEq] at h
    exact Or.inr ⟨‹_›, h.symm⟩

/-- What starting a stream can do (R242). -/
theorem startStream_next (s t : State) (h : startStream s = .next t) :
    (s.q.size = 0 ∧ t = finish 0 s) ∨
    (s.q.size ≠ 0 ∧ startChunk { s with c := { remaining := s.q.size, offset := 0, first := true } } = .next t) := by
  unfold startStream at h
  split at h
  · simp only [Host.Outcome.next.injEq] at h; exact Or.inl ⟨‹_›, h.symm⟩
  · exact Or.inr ⟨‹_›, h⟩

/-- What continuing a stream can do (R239). -/
theorem continueStream_next (abort : Bool) (s t : State) (h : continueStream abort s = .next t) :
    (s.e.pending = true ∧ t = finish s.e.status s) ∨
    (s.e.pending = false ∧ abort = true ∧ t = finish (-3) s) ∨
    (s.e.pending = false ∧ abort = false ∧ startChunk s = .next t) := by
  unfold continueStream at h
  split at h
  · simp only [Host.Outcome.next.injEq] at h; exact Or.inl ⟨‹_›, h.symm⟩
  · rename_i hp
    split at h
    · simp only [Host.Outcome.next.injEq] at h; exact Or.inr (Or.inl ⟨by simpa using hp, ‹_›, h.symm⟩)
    · rename_i ha; exact Or.inr (Or.inr ⟨by simpa using hp, by simpa using ha, h⟩)

/-- What the return from the callback can do (R291, R292). -/
theorem callbackReturn_next (abort : Bool) (s t : State) (h : callbackReturn abort s = .next t) :
    (s.engine = .cbWait ∧ continueStream abort { s with chunkPending := false } = .next t) ∨ (s.engine ≠ .cbWait ∧ t = s) := by
  unfold callbackReturn at h
  split at h
  · exact Or.inl ⟨‹_›, h⟩
  · simp only [Host.Outcome.next.injEq] at h; exact Or.inr ⟨‹_›, h.symm⟩

/-- What an accepted chunk can do (R231): `m` is the memory after the bytes of a read chunk are written. -/
theorem chunkOk_next (st : Word) (a : Nat) (s t : State) (h : chunkOk st a s = .next t) :
    (readStops st a s = true ∧ t = finish 0 s) ∨
    (readStops st a s = false ∧ ∃ m : Memory,
      ((s.q.code = 0x08 ∧ m = memSetAll s.bufmem (chunkAddr s) ((s.rxbuf.drop 7).take a)) ∨ (s.q.code ≠ 0x08 ∧ m = s.bufmem)) ∧
      ((s.q.cbEn = true ∧ t = { advance st a { s with bufmem := m } with chunkPending := true, engine := .cbWait }) ∨
       (s.q.cbEn = false ∧ continueStream false (advance st a { s with bufmem := m }) = .next t))) := by
  unfold chunkOk at h
  split at h
  · simp only [Host.Outcome.next.injEq] at h; exact Or.inl ⟨‹_›, h.symm⟩
  · rename_i hns
    refine Or.inr ⟨by simpa using hns, ?_⟩
    obtain ⟨s', hs', hk⟩ := andThen_eq_next h
    clear h
    rcases writeIf_next _ _ _ _ _ hs' with ⟨h8, rfl⟩ | ⟨h8, rfl⟩
    · refine ⟨_, Or.inl ⟨h8, rfl⟩, ?_⟩
      split at hk
      · rename_i hc; simp only [Host.Outcome.next.injEq] at hk; exact Or.inl ⟨hc, hk.symm⟩
      · rename_i hc; exact Or.inr ⟨by simpa using hc, hk⟩
    · refine ⟨s'.bufmem, Or.inr ⟨h8, rfl⟩, ?_⟩
      split at hk
      · rename_i hc; simp only [Host.Outcome.next.injEq] at hk; exact Or.inl ⟨hc, hk.symm⟩
      · rename_i hc; exact Or.inr ⟨by simpa using hc, hk⟩

/-! ## Failures and answers -/

/-- What a charged failure does (R195, R196, R227). -/
theorem retryOrFinish_cases (ph : Phase) (back : EngineState) (s : State) :
    (phaseOver s.q.R ph = true ∧ retryOrFinish ph back s = finish (exhausted s) s) ∨
    (phaseOver s.q.R ph = false ∧ retryOrFinish ph back s = { s with engine := back }) := by
  unfold retryOrFinish
  split
  · exact Or.inl ⟨‹_›, rfl⟩
  · rename_i h; exact Or.inr ⟨by simpa using h, rfl⟩

/-- What a failed send does: a FIFO chunk is marked as resent (R195, R199, R227). -/
theorem sendFailure_cases (s : State) :
    (s.q.noerr = true ∧ sendFailure s = finish 0 s) ∨
    (s.q.noerr = false ∧ isFifo s.q.code = true ∧ sendFailure s = retryOrFinish (chargePhase s.timeMs s.q.T s.ps) .send
      { s with ps := chargePhase s.timeMs s.q.T s.ps, k := { s.k with resend := true } }) ∨
    (s.q.noerr = false ∧ isFifo s.q.code = false ∧ sendFailure s = retryOrFinish (chargePhase s.timeMs s.q.T s.ps) .send
      { s with ps := chargePhase s.timeMs s.q.T s.ps }) := by
  unfold sendFailure fifoSendFailure regSendFailure regNoError
  cases s.q.noerr <;> cases isFifo s.q.code <;> simp

/-- What a failed await-ack attempt does: a register command receives again, a FIFO chunk is sent again (R196, R199, R227, R229). -/
theorem ackFailure_cases (s : State) :
    (s.q.noerr = true ∧ ackFailure s = finish 0 s) ∨
    (s.q.noerr = false ∧ isFifo s.q.code = true ∧ ackFailure s = retryOrFinish (chargePhase s.timeMs s.q.T s.pa) .send
      { s with pa := chargePhase s.timeMs s.q.T s.pa, k := { s.k with resend := true } }) ∨
    (s.q.noerr = false ∧ isFifo s.q.code = false ∧ ackFailure s = retryOrFinish (chargePhase s.timeMs s.q.T s.pa) .recv
      { s with pa := chargePhase s.timeMs s.q.T s.pa }) := by
  unfold ackFailure fifoAckFailure regAckFailure regNoError
  cases s.q.noerr <;> cases isFifo s.q.code <;> simp [ackRetryState]

/-- What the answer to a send can do (R194, R226). -/
theorem sendResponse_cases (r : Word) (s : State) :
    (r.toInt = s.txlen ∧ sendResponse r s = { s with outstanding := none, engine := .recv }) ∨
    (r.toInt ≠ s.txlen ∧ sendResponse r s = sendFailure { s with outstanding := none }) := by
  unfold sendResponse
  split
  · exact Or.inl ⟨‹_›, rfl⟩
  · exact Or.inr ⟨‹_›, rfl⟩

/-- An accepted answer carries the expected ack byte, and an accepted `ACK_READ_FIFO` counts no more bytes than the chunk (R173, R176). -/
theorem decodeAck_ok (r : Word) (s : State) (st : Word) (h : decodeAck r s = .ok st) :
    r.toInt = s.rxn ∧ byteAt s.rxbuf 1 = s.expack ∧ (s.expack = 0x88 → (byteAt s.rxbuf 6).toNat ≤ s.k.size) := by
  unfold decodeAck at h
  split at h
  · cases h
  · rename_i hr
    split at h
    · cases h
    · rename_i cov hcov
      refine ⟨by simpa using hr, ?_, fun h8 => ?_⟩
      · repeat' split at h
        all_goals first | (cases h; done) | skip
        all_goals simp_all
      · unfold coveredLength at hcov
        rw [if_pos h8] at hcov
        simp only at hcov
        split at hcov
        · cases hcov
        · omega

/-- What an accepted acknowledgement of a register command can do (R197). -/
theorem regAccept_next (st : Word) (s t : State) (h : regAccept st s = .next t) :
    (s.q.code = 0x02 ∧ t = finish st { s with bufmem := memSetAll s.bufmem s.q.ptr ((s.rxbuf.drop 6).take s.q.size.toNat), bytesDone := s.q.size }) ∨
    (s.q.code ≠ 0x02 ∧ t = finish st { s with bytesDone := s.q.size }) := by
  unfold regAccept at h
  obtain ⟨s', hs', hk⟩ := andThen_eq_next h
  clear h
  simp only [Host.Outcome.next.injEq] at hk
  rcases writeIf_next _ _ _ _ _ hs' with ⟨h2, rfl⟩ | ⟨h2, rfl⟩
  · exact Or.inl ⟨h2, hk.symm⟩
  · exact Or.inr ⟨h2, hk.symm⟩

/-- What an accepted acknowledgement can do (R197, R228). -/
theorem ackAccept_next (st : Word) (s t : State) (h : ackAccept st s = .next t) :
    (s.q.code = 0x04 ∧ chunkOk st s.k.size s = .next t) ∨
    (s.q.code = 0x08 ∧ chunkOk st (byteAt s.rxbuf 6).toNat s = .next t) ∨
    (s.q.code ≠ 0x04 ∧ s.q.code ≠ 0x08 ∧ regAccept st s = .next t) := by
  unfold ackAccept at h
  split at h
  · exact Or.inl ⟨‹_›, h⟩
  · split at h
    · exact Or.inr (Or.inl ⟨‹_›, h⟩)
    · exact Or.inr (Or.inr ⟨‹_›, ‹_›, h⟩)

/-- What the answer to a receive can do (R142 to R144, R196, R228, R312). -/
theorem recvResponse_next (r : Word) (d : List Byte) (s t : State) (h : recvResponse r d s = .next t) :
    (s.engine ≠ .recvWait ∧ t = s) ∨
    (s.engine = .recvWait ∧ r.toInt = s.rxn ∧ d.length = s.rxn ∧
      ∃ st, decodeAck r (takeResponse r d s) = .ok st ∧ ackAccept st (takeResponse r d s) = .next t) ∨
    (s.engine = .recvWait ∧ (r.toInt = s.rxn → d.length = s.rxn) ∧
      ∃ ls, t = ackFailure { takeResponse r d s with ls := ls } ∧
        (ls = s.ls ∨ ∃ st, decodeAck r (takeResponse r d s) = .devErr st ∧ ls = { valid := true, value := st })) := by
  unfold recvResponse at h
  split at h
  · rename_i he
    split at h
    · cases h
    · rename_i hd
      have hlen : r.toInt = s.rxn → d.length = s.rxn := fun hr => by_contra fun hc => hd ⟨hr, hc⟩
      refine Or.inr ?_
      cases ho : decodeAck r (takeResponse r d s) with
      | ok st =>
        rw [ho] at h
        have hr := (decodeAck_ok _ _ _ ho).1
        exact Or.inl ⟨he, hr, hlen hr, st, rfl, h⟩
      | devErr st =>
        rw [ho] at h; simp only [onAck, Host.Outcome.next.injEq] at h
        exact Or.inr ⟨he, hlen, _, h.symm, Or.inr ⟨st, rfl, rfl⟩⟩
      | tfail =>
        rw [ho] at h; simp only [onAck, Host.Outcome.next.injEq] at h
        exact Or.inr ⟨he, hlen, s.ls, h.symm, Or.inl rfl⟩
      | ffail =>
        rw [ho] at h; simp only [onAck, Host.Outcome.next.injEq] at h
        exact Or.inr ⟨he, hlen, s.ls, h.symm, Or.inl rfl⟩
  · simp only [Host.Outcome.next.injEq] at h; exact Or.inl ⟨‹_›, h.symm⟩

/-! ## Commands and frames -/

/-- What a GO of a command can do (R281 to R287). -/
theorem runCommand_next (code : Byte) (req : Request) (bad : Bool) (start : State → Res State) (s t : State)
    (h : runCommand code req bad start s = .next t) :
    (s.busy = true ∧ t = s) ∨
    (s.busy = false ∧ bad = true ∧ t = complete (-2) (acceptGo code req s)) ∨
    (s.busy = false ∧ bad = false ∧ start (acceptGo code req s) = .next t) := by
  unfold runCommand at h
  split at h
  · simp only [Host.Outcome.next.injEq] at h; exact Or.inl ⟨‹_›, h.symm⟩
  · rename_i hb
    have hb : s.busy = false := by simpa using hb
    split at h
    · simp only [Host.Outcome.next.injEq] at h; exact Or.inr (Or.inl ⟨hb, ‹_›, h.symm⟩)
    · rename_i hbad; exact Or.inr (Or.inr ⟨hb, by simpa using hbad, h⟩)

/-- What sending a frame can do (R193, R225, log 15). -/
theorem sendFrame_next (f : List Byte) (s t : State) (h : sendFrame f s = .next t) :
    s.engine = .send ∧ t = issueSend (loadFrame f s) := by
  unfold sendFrame at h
  split at h
  · simp only [Host.Outcome.next.injEq] at h; exact ⟨‹_›, h.symm⟩
  · cases h

/-- A request frame runs as the send of its bytes. -/
theorem exec_request (i : Instr) (tagged : Bool) (s : State) (hp : i.port = .request tagged) : exec i s = sendFrame (encode i) s := by
  cases i <;> first | (exfalso; cases hp; done) | rfl

/-- An acknowledgement runs as the answer to the receive with its bytes. -/
theorem exec_ack (i : Instr) (s : State) (hp : i.port = .ack) :
    exec i s = recvResponse (BitVec.ofNat 32 (encode i).length) (encode i) s := by
  cases i <;> first | (exfalso; cases hp; done) | rfl

/-- A well-formed acknowledgement fits the receive buffer (R15). -/
theorem ack_length_le (i : Instr) (hp : i.port = .ack) (hw : i.wf = true) : (encode i).length ≤ 248 := by
  cases i <;> first | (exfalso; cases hp; done) | (simp [Instr.wf] at hw; simp [encode]; try omega)

/-- A count of received bytes reads as itself. -/
theorem toInt_ofNat_len (n : Nat) (h : n ≤ 248) : (BitVec.ofNat 32 n).toInt = n := by
  rw [BitVec.toInt_eq_toNat_of_lt (by simp only [BitVec.toNat_ofNat]; omega)]
  simp only [BitVec.toNat_ofNat]; omega

/-! ## Registers and the host's buffer -/

/-- What a register write can change: IRQ_EN, or one request register while BUSY is clear (R34, R39). -/
theorem writeReg_kept_by_busy (offset : Nat) (v : Word) (s : State) (hb : s.busy = true) (ho : offset ≠ 0x2C) : writeReg offset v s = s := by
  unfold writeReg
  rw [if_neg ho, if_pos hb]

/-- What a host store can do (R77). -/
theorem hostStore_next (a : Word) (v : Byte) (s t : State) (h : hostStore a v s = .next t) :
    inRunningBuffer s a = false ∧ isBacked s a = true ∧ t = { s with bufmem := memSet s.bufmem a.toNat v } := by
  unfold hostStore memWrite at h
  split at h
  · cases h
  · rename_i hr
    split at h
    · simp only [Host.Outcome.next.injEq] at h; exact ⟨by simpa using hr, ‹_›, h.symm⟩
    · cases h

/-- What a host load can do (R77, log 14). -/
theorem hostLoad_next (a : Word) (s t : State) (h : hostLoad a s = .next t) :
    isBacked s a = true ∧ ∃ v n, t = { s with bufData := v, freeCount := n } := by
  unfold hostLoad memRead at h
  obtain ⟨v, hv, h⟩ := andThen_eq_next h
  split at hv
  · refine ⟨‹_›, ?_⟩
    split at h <;> (simp only [Host.Outcome.next.injEq] at h; exact ⟨_, _, h.symm⟩)
  · cases hv

end Sys2Proof.Machine
end

