-- ==== Sys2Proof/Laws/PerInstr.lean ====
section
/-! SUPPORT. A law of every instruction as syntax: how many bytes its encoding takes. -/

namespace Sys2Proof.Laws.EncodeSize

open Sys2Proof Sys2Proof.Machine

/-- A well-formed instruction takes 4 to 249 bytes: no frame is longer than the send buffer (R15). -/
def Statement (i : Instr) : Prop := i.wf = true → 4 ≤ (encode i).length ∧ (encode i).length ≤ 249

theorem writeRegister (req : Request) : Statement (.writeRegister req) := fun _ => ⟨by simp [encode, requestBlock], by simp [encode, requestBlock]⟩

theorem readRegister (req : Request) : Statement (.readRegister req) := fun _ => ⟨by simp [encode, requestBlock], by simp [encode, requestBlock]⟩

theorem writeFifo (req : Request) : Statement (.writeFifo req) := fun _ => ⟨by simp [encode, requestBlock], by simp [encode, requestBlock]⟩

theorem readFifo (req : Request) : Statement (.readFifo req) := fun _ => ⟨by simp [encode, requestBlock], by simp [encode, requestBlock]⟩

theorem setChannelTimeout (req : Request) : Statement (.setChannelTimeout req) := fun _ => ⟨by simp [encode, requestBlock], by simp [encode, requestBlock]⟩

theorem go (c : Bool) (a : Bool) : Statement (.go c a) := fun _ => ⟨by simp [encode], by simp [encode]⟩

theorem cbAck : Statement (.cbAck) := fun _ => ⟨by decide, by decide⟩

theorem cbAckAbort : Statement (.cbAckAbort) := fun _ => ⟨by decide, by decide⟩

theorem doneClear : Statement (.doneClear) := fun _ => ⟨by decide, by decide⟩

theorem write (hint : Option Byte) (addr : Word) (payload : List Byte) : Statement (.write hint addr payload) := by
  intro h
  simp [Instr.wf] at h
  cases hint <;> simp [encode, sealRequest_length] <;> omega

theorem read (hint : Option Byte) (addr : Word) (size : Byte) : Statement (.read hint addr size) := by
  intro h
  simp [Instr.wf] at h
  cases hint <;> simp [encode, sealRequest_length]

theorem writeFifoFrame (hint : Option Byte) (fop : Byte) (addr : Word) (payload : List Byte) : Statement (.writeFifoFrame hint fop addr payload) := by
  intro h
  simp [Instr.wf, wfChunk] at h
  cases hint <;> simp [encode, sealRequest_length] <;> omega

theorem readFifoFrame (hint : Option Byte) (fop : Byte) (addr : Word) (size : Byte) : Statement (.readFifoFrame hint fop addr size) := by
  intro h
  simp [Instr.wf, wfChunk] at h
  cases hint <;> simp [encode, sealRequest_length]

theorem ackWrite (len : Byte) (status : Word) (crc : Byte) : Statement (.ackWrite len status crc) := by
  intro h
  simp [Instr.wf] at h
  simp [encode]

theorem ackRead (len : Byte) (status : Word) (data : List Byte) (crc : Byte) : Statement (.ackRead len status data crc) := by
  intro h
  simp [Instr.wf] at h
  simp [encode]
  omega

theorem ackWriteFifo (len : Byte) (status : Word) (crc : Byte) : Statement (.ackWriteFifo len status crc) := by
  intro h
  simp [Instr.wf] at h
  simp [encode]

theorem ackReadFifo (len : Byte) (status : Word) (data : List Byte) (crc : Byte) (rest : List Byte) : Statement (.ackReadFifo len status data crc rest) := by
  intro h
  simp [Instr.wf] at h
  simp [encode]
  omega

theorem ackError (len : Byte) (status : Word) (rest : List Byte) : Statement (.ackError len status rest) := by
  intro h
  simp [Instr.wf] at h
  simp [encode]
  omega

end Sys2Proof.Laws.EncodeSize
end

