-- ==== Sys2Proof/Laws/State.lean ====
section
/-! SUPPORT. What each update of the state leaves in each field, so that no proof unfolds a record update. -/

namespace Sys2Proof.Machine

/-! ## R306: the completion of a command -/

@[simp] theorem complete_cmd (st : Word) (s : State) : (complete st s).cmd = s.cmd := rfl
@[simp] theorem complete_addr (st : Word) (s : State) : (complete st s).addr = s.addr := rfl
@[simp] theorem complete_dataPtr (st : Word) (s : State) : (complete st s).dataPtr = s.dataPtr := rfl
@[simp] theorem complete_dataSize (st : Word) (s : State) : (complete st s).dataSize = s.dataSize := rfl
@[simp] theorem complete_timeoutMs (st : Word) (s : State) : (complete st s).timeoutMs = s.timeoutMs := rfl
@[simp] theorem complete_maxRetries (st : Word) (s : State) : (complete st s).maxRetries = s.maxRetries := rfl
@[simp] theorem complete_flags (st : Word) (s : State) : (complete st s).flags = s.flags := rfl
@[simp] theorem complete_busy (st : Word) (s : State) : (complete st s).busy = false := rfl
@[simp] theorem complete_done (st : Word) (s : State) : (complete st s).done = true := rfl
@[simp] theorem complete_chunkPending (st : Word) (s : State) : (complete st s).chunkPending = false := rfl
@[simp] theorem complete_result (st : Word) (s : State) : (complete st s).result = st := rfl
@[simp] theorem complete_bytesDone (st : Word) (s : State) : (complete st s).bytesDone = s.bytesDone := rfl
@[simp] theorem complete_irqEn (st : Word) (s : State) : (complete st s).irqEn = s.irqEn := rfl
@[simp] theorem complete_chanTimeout (st : Word) (s : State) : (complete st s).chanTimeout = s.chanTimeout := rfl
@[simp] theorem complete_chunks (st : Word) (s : State) : (complete st s).chunks = s.chunks := rfl
@[simp] theorem complete_engine (st : Word) (s : State) : (complete st s).engine = .idle := rfl
@[simp] theorem complete_q (st : Word) (s : State) : (complete st s).q = s.q := rfl
@[simp] theorem complete_c (st : Word) (s : State) : (complete st s).c = s.c := rfl
@[simp] theorem complete_k (st : Word) (s : State) : (complete st s).k = s.k := rfl
@[simp] theorem complete_ps (st : Word) (s : State) : (complete st s).ps = s.ps := rfl
@[simp] theorem complete_pa (st : Word) (s : State) : (complete st s).pa = s.pa := rfl
@[simp] theorem complete_ls (st : Word) (s : State) : (complete st s).ls = s.ls := rfl
@[simp] theorem complete_e (st : Word) (s : State) : (complete st s).e = s.e := rfl
@[simp] theorem complete_txbuf (st : Word) (s : State) : (complete st s).txbuf = s.txbuf := rfl
@[simp] theorem complete_txlen (st : Word) (s : State) : (complete st s).txlen = s.txlen := rfl
@[simp] theorem complete_rxbuf (st : Word) (s : State) : (complete st s).rxbuf = s.rxbuf := rfl
@[simp] theorem complete_rxn (st : Word) (s : State) : (complete st s).rxn = s.rxn := rfl
@[simp] theorem complete_expack (st : Word) (s : State) : (complete st s).expack = s.expack := rfl
@[simp] theorem complete_outstanding (st : Word) (s : State) : (complete st s).outstanding = s.outstanding := rfl
@[simp] theorem complete_timeMs (st : Word) (s : State) : (complete st s).timeMs = s.timeMs := rfl
@[simp] theorem complete_bufmem (st : Word) (s : State) : (complete st s).bufmem = s.bufmem := rfl
@[simp] theorem complete_backed (st : Word) (s : State) : (complete st s).backed = s.backed := rfl
@[simp] theorem complete_env (st : Word) (s : State) : (complete st s).env = s.env := rfl
@[simp] theorem complete_portData (st : Word) (s : State) : (complete st s).portData = s.portData := rfl
@[simp] theorem complete_bufData (st : Word) (s : State) : (complete st s).bufData = s.bufData := rfl
@[simp] theorem complete_freeCount (st : Word) (s : State) : (complete st s).freeCount = s.freeCount := rfl

/-! ## R306: `finish` -/

@[simp] theorem finish_cmd (st : Word) (s : State) : (finish st s).cmd = s.cmd := rfl
@[simp] theorem finish_addr (st : Word) (s : State) : (finish st s).addr = s.addr := rfl
@[simp] theorem finish_dataPtr (st : Word) (s : State) : (finish st s).dataPtr = s.dataPtr := rfl
@[simp] theorem finish_dataSize (st : Word) (s : State) : (finish st s).dataSize = if s.q.code = 0x08 then s.bytesDone else s.dataSize := rfl
@[simp] theorem finish_timeoutMs (st : Word) (s : State) : (finish st s).timeoutMs = s.timeoutMs := rfl
@[simp] theorem finish_maxRetries (st : Word) (s : State) : (finish st s).maxRetries = s.maxRetries := rfl
@[simp] theorem finish_flags (st : Word) (s : State) : (finish st s).flags = s.flags := rfl
@[simp] theorem finish_busy (st : Word) (s : State) : (finish st s).busy = false := rfl
@[simp] theorem finish_done (st : Word) (s : State) : (finish st s).done = true := rfl
@[simp] theorem finish_chunkPending (st : Word) (s : State) : (finish st s).chunkPending = false := rfl
@[simp] theorem finish_result (st : Word) (s : State) : (finish st s).result = st := rfl
@[simp] theorem finish_bytesDone (st : Word) (s : State) : (finish st s).bytesDone = s.bytesDone := rfl
@[simp] theorem finish_irqEn (st : Word) (s : State) : (finish st s).irqEn = s.irqEn := rfl
@[simp] theorem finish_chanTimeout (st : Word) (s : State) : (finish st s).chanTimeout = s.chanTimeout := rfl
@[simp] theorem finish_chunks (st : Word) (s : State) : (finish st s).chunks = s.chunks := rfl
@[simp] theorem finish_engine (st : Word) (s : State) : (finish st s).engine = .idle := rfl
@[simp] theorem finish_q (st : Word) (s : State) : (finish st s).q = s.q := rfl
@[simp] theorem finish_c (st : Word) (s : State) : (finish st s).c = s.c := rfl
@[simp] theorem finish_k (st : Word) (s : State) : (finish st s).k = s.k := rfl
@[simp] theorem finish_ps (st : Word) (s : State) : (finish st s).ps = s.ps := rfl
@[simp] theorem finish_pa (st : Word) (s : State) : (finish st s).pa = s.pa := rfl
@[simp] theorem finish_ls (st : Word) (s : State) : (finish st s).ls = s.ls := rfl
@[simp] theorem finish_e (st : Word) (s : State) : (finish st s).e = s.e := rfl
@[simp] theorem finish_txbuf (st : Word) (s : State) : (finish st s).txbuf = s.txbuf := rfl
@[simp] theorem finish_txlen (st : Word) (s : State) : (finish st s).txlen = s.txlen := rfl
@[simp] theorem finish_rxbuf (st : Word) (s : State) : (finish st s).rxbuf = s.rxbuf := rfl
@[simp] theorem finish_rxn (st : Word) (s : State) : (finish st s).rxn = s.rxn := rfl
@[simp] theorem finish_expack (st : Word) (s : State) : (finish st s).expack = s.expack := rfl
@[simp] theorem finish_outstanding (st : Word) (s : State) : (finish st s).outstanding = s.outstanding := rfl
@[simp] theorem finish_timeMs (st : Word) (s : State) : (finish st s).timeMs = s.timeMs := rfl
@[simp] theorem finish_bufmem (st : Word) (s : State) : (finish st s).bufmem = s.bufmem := rfl
@[simp] theorem finish_backed (st : Word) (s : State) : (finish st s).backed = s.backed := rfl
@[simp] theorem finish_env (st : Word) (s : State) : (finish st s).env = s.env := rfl
@[simp] theorem finish_portData (st : Word) (s : State) : (finish st s).portData = s.portData := rfl
@[simp] theorem finish_bufData (st : Word) (s : State) : (finish st s).bufData = s.bufData := rfl
@[simp] theorem finish_freeCount (st : Word) (s : State) : (finish st s).freeCount = s.freeCount := rfl

/-! ## R160: a frame put into the send buffer -/

@[simp] theorem loadFrame_cmd (f : List Byte) (s : State) : (loadFrame f s).cmd = s.cmd := rfl
@[simp] theorem loadFrame_addr (f : List Byte) (s : State) : (loadFrame f s).addr = s.addr := rfl
@[simp] theorem loadFrame_dataPtr (f : List Byte) (s : State) : (loadFrame f s).dataPtr = s.dataPtr := rfl
@[simp] theorem loadFrame_dataSize (f : List Byte) (s : State) : (loadFrame f s).dataSize = s.dataSize := rfl
@[simp] theorem loadFrame_timeoutMs (f : List Byte) (s : State) : (loadFrame f s).timeoutMs = s.timeoutMs := rfl
@[simp] theorem loadFrame_maxRetries (f : List Byte) (s : State) : (loadFrame f s).maxRetries = s.maxRetries := rfl
@[simp] theorem loadFrame_flags (f : List Byte) (s : State) : (loadFrame f s).flags = s.flags := rfl
@[simp] theorem loadFrame_busy (f : List Byte) (s : State) : (loadFrame f s).busy = s.busy := rfl
@[simp] theorem loadFrame_done (f : List Byte) (s : State) : (loadFrame f s).done = s.done := rfl
@[simp] theorem loadFrame_chunkPending (f : List Byte) (s : State) : (loadFrame f s).chunkPending = s.chunkPending := rfl
@[simp] theorem loadFrame_result (f : List Byte) (s : State) : (loadFrame f s).result = s.result := rfl
@[simp] theorem loadFrame_bytesDone (f : List Byte) (s : State) : (loadFrame f s).bytesDone = s.bytesDone := rfl
@[simp] theorem loadFrame_irqEn (f : List Byte) (s : State) : (loadFrame f s).irqEn = s.irqEn := rfl
@[simp] theorem loadFrame_chanTimeout (f : List Byte) (s : State) : (loadFrame f s).chanTimeout = s.chanTimeout := rfl
@[simp] theorem loadFrame_chunks (f : List Byte) (s : State) : (loadFrame f s).chunks = s.chunks := rfl
@[simp] theorem loadFrame_engine (f : List Byte) (s : State) : (loadFrame f s).engine = s.engine := rfl
@[simp] theorem loadFrame_q (f : List Byte) (s : State) : (loadFrame f s).q = s.q := rfl
@[simp] theorem loadFrame_c (f : List Byte) (s : State) : (loadFrame f s).c = s.c := rfl
@[simp] theorem loadFrame_k (f : List Byte) (s : State) : (loadFrame f s).k = s.k := rfl
@[simp] theorem loadFrame_ps (f : List Byte) (s : State) : (loadFrame f s).ps = s.ps := rfl
@[simp] theorem loadFrame_pa (f : List Byte) (s : State) : (loadFrame f s).pa = s.pa := rfl
@[simp] theorem loadFrame_ls (f : List Byte) (s : State) : (loadFrame f s).ls = s.ls := rfl
@[simp] theorem loadFrame_e (f : List Byte) (s : State) : (loadFrame f s).e = s.e := rfl
@[simp] theorem loadFrame_txbuf (f : List Byte) (s : State) : (loadFrame f s).txbuf = overwrite s.txbuf 0 f := rfl
@[simp] theorem loadFrame_txlen (f : List Byte) (s : State) : (loadFrame f s).txlen = f.length := rfl
@[simp] theorem loadFrame_rxbuf (f : List Byte) (s : State) : (loadFrame f s).rxbuf = s.rxbuf := rfl
@[simp] theorem loadFrame_rxn (f : List Byte) (s : State) : (loadFrame f s).rxn = s.rxn := rfl
@[simp] theorem loadFrame_expack (f : List Byte) (s : State) : (loadFrame f s).expack = s.expack := rfl
@[simp] theorem loadFrame_outstanding (f : List Byte) (s : State) : (loadFrame f s).outstanding = s.outstanding := rfl
@[simp] theorem loadFrame_timeMs (f : List Byte) (s : State) : (loadFrame f s).timeMs = s.timeMs := rfl
@[simp] theorem loadFrame_bufmem (f : List Byte) (s : State) : (loadFrame f s).bufmem = s.bufmem := rfl
@[simp] theorem loadFrame_backed (f : List Byte) (s : State) : (loadFrame f s).backed = s.backed := rfl
@[simp] theorem loadFrame_env (f : List Byte) (s : State) : (loadFrame f s).env = s.env := rfl
@[simp] theorem loadFrame_portData (f : List Byte) (s : State) : (loadFrame f s).portData = s.portData := rfl
@[simp] theorem loadFrame_bufData (f : List Byte) (s : State) : (loadFrame f s).bufData = s.bufData := rfl
@[simp] theorem loadFrame_freeCount (f : List Byte) (s : State) : (loadFrame f s).freeCount = s.freeCount := rfl

/-! ## R141: the send attempt -/

@[simp] theorem issueSend_cmd (s : State) : (issueSend s).cmd = s.cmd := rfl
@[simp] theorem issueSend_addr (s : State) : (issueSend s).addr = s.addr := rfl
@[simp] theorem issueSend_dataPtr (s : State) : (issueSend s).dataPtr = s.dataPtr := rfl
@[simp] theorem issueSend_dataSize (s : State) : (issueSend s).dataSize = s.dataSize := rfl
@[simp] theorem issueSend_timeoutMs (s : State) : (issueSend s).timeoutMs = s.timeoutMs := rfl
@[simp] theorem issueSend_maxRetries (s : State) : (issueSend s).maxRetries = s.maxRetries := rfl
@[simp] theorem issueSend_flags (s : State) : (issueSend s).flags = s.flags := rfl
@[simp] theorem issueSend_busy (s : State) : (issueSend s).busy = s.busy := rfl
@[simp] theorem issueSend_done (s : State) : (issueSend s).done = s.done := rfl
@[simp] theorem issueSend_chunkPending (s : State) : (issueSend s).chunkPending = s.chunkPending := rfl
@[simp] theorem issueSend_result (s : State) : (issueSend s).result = s.result := rfl
@[simp] theorem issueSend_bytesDone (s : State) : (issueSend s).bytesDone = s.bytesDone := rfl
@[simp] theorem issueSend_irqEn (s : State) : (issueSend s).irqEn = s.irqEn := rfl
@[simp] theorem issueSend_chanTimeout (s : State) : (issueSend s).chanTimeout = s.chanTimeout := rfl
@[simp] theorem issueSend_chunks (s : State) : (issueSend s).chunks = s.chunks := rfl
@[simp] theorem issueSend_engine (s : State) : (issueSend s).engine = .sendWait := rfl
@[simp] theorem issueSend_q (s : State) : (issueSend s).q = s.q := rfl
@[simp] theorem issueSend_c (s : State) : (issueSend s).c = s.c := rfl
@[simp] theorem issueSend_k (s : State) : (issueSend s).k = s.k := rfl
@[simp] theorem issueSend_ps (s : State) : (issueSend s).ps = s.ps := rfl
@[simp] theorem issueSend_pa (s : State) : (issueSend s).pa = s.pa := rfl
@[simp] theorem issueSend_ls (s : State) : (issueSend s).ls = s.ls := rfl
@[simp] theorem issueSend_e (s : State) : (issueSend s).e = s.e := rfl
@[simp] theorem issueSend_txbuf (s : State) : (issueSend s).txbuf = s.txbuf := rfl
@[simp] theorem issueSend_txlen (s : State) : (issueSend s).txlen = s.txlen := rfl
@[simp] theorem issueSend_rxbuf (s : State) : (issueSend s).rxbuf = s.rxbuf := rfl
@[simp] theorem issueSend_rxn (s : State) : (issueSend s).rxn = s.rxn := rfl
@[simp] theorem issueSend_expack (s : State) : (issueSend s).expack = s.expack := rfl
@[simp] theorem issueSend_outstanding (s : State) : (issueSend s).outstanding = some (.send (txFrame s) s.txlen s.q.T) := rfl
@[simp] theorem issueSend_timeMs (s : State) : (issueSend s).timeMs = s.timeMs := rfl
@[simp] theorem issueSend_bufmem (s : State) : (issueSend s).bufmem = s.bufmem := rfl
@[simp] theorem issueSend_backed (s : State) : (issueSend s).backed = s.backed := rfl
@[simp] theorem issueSend_env (s : State) : (issueSend s).env = s.env := rfl
@[simp] theorem issueSend_portData (s : State) : (issueSend s).portData = s.portData := rfl
@[simp] theorem issueSend_bufData (s : State) : (issueSend s).bufData = s.bufData := rfl
@[simp] theorem issueSend_freeCount (s : State) : (issueSend s).freeCount = s.freeCount := rfl

/-! ## R142: the receive attempt -/

@[simp] theorem issueRecv_cmd (s : State) : (issueRecv s).cmd = s.cmd := rfl
@[simp] theorem issueRecv_addr (s : State) : (issueRecv s).addr = s.addr := rfl
@[simp] theorem issueRecv_dataPtr (s : State) : (issueRecv s).dataPtr = s.dataPtr := rfl
@[simp] theorem issueRecv_dataSize (s : State) : (issueRecv s).dataSize = s.dataSize := rfl
@[simp] theorem issueRecv_timeoutMs (s : State) : (issueRecv s).timeoutMs = s.timeoutMs := rfl
@[simp] theorem issueRecv_maxRetries (s : State) : (issueRecv s).maxRetries = s.maxRetries := rfl
@[simp] theorem issueRecv_flags (s : State) : (issueRecv s).flags = s.flags := rfl
@[simp] theorem issueRecv_busy (s : State) : (issueRecv s).busy = s.busy := rfl
@[simp] theorem issueRecv_done (s : State) : (issueRecv s).done = s.done := rfl
@[simp] theorem issueRecv_chunkPending (s : State) : (issueRecv s).chunkPending = s.chunkPending := rfl
@[simp] theorem issueRecv_result (s : State) : (issueRecv s).result = s.result := rfl
@[simp] theorem issueRecv_bytesDone (s : State) : (issueRecv s).bytesDone = s.bytesDone := rfl
@[simp] theorem issueRecv_irqEn (s : State) : (issueRecv s).irqEn = s.irqEn := rfl
@[simp] theorem issueRecv_chanTimeout (s : State) : (issueRecv s).chanTimeout = s.chanTimeout := rfl
@[simp] theorem issueRecv_chunks (s : State) : (issueRecv s).chunks = s.chunks := rfl
@[simp] theorem issueRecv_engine (s : State) : (issueRecv s).engine = .recvWait := rfl
@[simp] theorem issueRecv_q (s : State) : (issueRecv s).q = s.q := rfl
@[simp] theorem issueRecv_c (s : State) : (issueRecv s).c = s.c := rfl
@[simp] theorem issueRecv_k (s : State) : (issueRecv s).k = s.k := rfl
@[simp] theorem issueRecv_ps (s : State) : (issueRecv s).ps = s.ps := rfl
@[simp] theorem issueRecv_pa (s : State) : (issueRecv s).pa = s.pa := rfl
@[simp] theorem issueRecv_ls (s : State) : (issueRecv s).ls = s.ls := rfl
@[simp] theorem issueRecv_e (s : State) : (issueRecv s).e = s.e := rfl
@[simp] theorem issueRecv_txbuf (s : State) : (issueRecv s).txbuf = s.txbuf := rfl
@[simp] theorem issueRecv_txlen (s : State) : (issueRecv s).txlen = s.txlen := rfl
@[simp] theorem issueRecv_rxbuf (s : State) : (issueRecv s).rxbuf = s.rxbuf := rfl
@[simp] theorem issueRecv_rxn (s : State) : (issueRecv s).rxn = s.rxn := rfl
@[simp] theorem issueRecv_expack (s : State) : (issueRecv s).expack = s.expack := rfl
@[simp] theorem issueRecv_outstanding (s : State) : (issueRecv s).outstanding = some (.recv s.rxn s.q.T) := rfl
@[simp] theorem issueRecv_timeMs (s : State) : (issueRecv s).timeMs = s.timeMs := rfl
@[simp] theorem issueRecv_bufmem (s : State) : (issueRecv s).bufmem = s.bufmem := rfl
@[simp] theorem issueRecv_backed (s : State) : (issueRecv s).backed = s.backed := rfl
@[simp] theorem issueRecv_env (s : State) : (issueRecv s).env = s.env := rfl
@[simp] theorem issueRecv_portData (s : State) : (issueRecv s).portData = s.portData := rfl
@[simp] theorem issueRecv_bufData (s : State) : (issueRecv s).bufData = s.bufData := rfl
@[simp] theorem issueRecv_freeCount (s : State) : (issueRecv s).freeCount = s.freeCount := rfl

/-! ## R145: the set-timeout request -/

@[simp] theorem issueSetTimeout_cmd (s : State) : (issueSetTimeout s).cmd = s.cmd := rfl
@[simp] theorem issueSetTimeout_addr (s : State) : (issueSetTimeout s).addr = s.addr := rfl
@[simp] theorem issueSetTimeout_dataPtr (s : State) : (issueSetTimeout s).dataPtr = s.dataPtr := rfl
@[simp] theorem issueSetTimeout_dataSize (s : State) : (issueSetTimeout s).dataSize = s.dataSize := rfl
@[simp] theorem issueSetTimeout_timeoutMs (s : State) : (issueSetTimeout s).timeoutMs = s.timeoutMs := rfl
@[simp] theorem issueSetTimeout_maxRetries (s : State) : (issueSetTimeout s).maxRetries = s.maxRetries := rfl
@[simp] theorem issueSetTimeout_flags (s : State) : (issueSetTimeout s).flags = s.flags := rfl
@[simp] theorem issueSetTimeout_busy (s : State) : (issueSetTimeout s).busy = s.busy := rfl
@[simp] theorem issueSetTimeout_done (s : State) : (issueSetTimeout s).done = s.done := rfl
@[simp] theorem issueSetTimeout_chunkPending (s : State) : (issueSetTimeout s).chunkPending = s.chunkPending := rfl
@[simp] theorem issueSetTimeout_result (s : State) : (issueSetTimeout s).result = s.result := rfl
@[simp] theorem issueSetTimeout_bytesDone (s : State) : (issueSetTimeout s).bytesDone = s.bytesDone := rfl
@[simp] theorem issueSetTimeout_irqEn (s : State) : (issueSetTimeout s).irqEn = s.irqEn := rfl
@[simp] theorem issueSetTimeout_chanTimeout (s : State) : (issueSetTimeout s).chanTimeout = s.chanTimeout := rfl
@[simp] theorem issueSetTimeout_chunks (s : State) : (issueSetTimeout s).chunks = s.chunks := rfl
@[simp] theorem issueSetTimeout_engine (s : State) : (issueSetTimeout s).engine = .ctlWait := rfl
@[simp] theorem issueSetTimeout_q (s : State) : (issueSetTimeout s).q = s.q := rfl
@[simp] theorem issueSetTimeout_c (s : State) : (issueSetTimeout s).c = s.c := rfl
@[simp] theorem issueSetTimeout_k (s : State) : (issueSetTimeout s).k = s.k := rfl
@[simp] theorem issueSetTimeout_ps (s : State) : (issueSetTimeout s).ps = s.ps := rfl
@[simp] theorem issueSetTimeout_pa (s : State) : (issueSetTimeout s).pa = s.pa := rfl
@[simp] theorem issueSetTimeout_ls (s : State) : (issueSetTimeout s).ls = s.ls := rfl
@[simp] theorem issueSetTimeout_e (s : State) : (issueSetTimeout s).e = s.e := rfl
@[simp] theorem issueSetTimeout_txbuf (s : State) : (issueSetTimeout s).txbuf = s.txbuf := rfl
@[simp] theorem issueSetTimeout_txlen (s : State) : (issueSetTimeout s).txlen = s.txlen := rfl
@[simp] theorem issueSetTimeout_rxbuf (s : State) : (issueSetTimeout s).rxbuf = s.rxbuf := rfl
@[simp] theorem issueSetTimeout_rxn (s : State) : (issueSetTimeout s).rxn = s.rxn := rfl
@[simp] theorem issueSetTimeout_expack (s : State) : (issueSetTimeout s).expack = s.expack := rfl
@[simp] theorem issueSetTimeout_outstanding (s : State) : (issueSetTimeout s).outstanding = some (.setTimeout s.q.rawT) := rfl
@[simp] theorem issueSetTimeout_timeMs (s : State) : (issueSetTimeout s).timeMs = s.timeMs := rfl
@[simp] theorem issueSetTimeout_bufmem (s : State) : (issueSetTimeout s).bufmem = s.bufmem := rfl
@[simp] theorem issueSetTimeout_backed (s : State) : (issueSetTimeout s).backed = s.backed := rfl
@[simp] theorem issueSetTimeout_env (s : State) : (issueSetTimeout s).env = s.env := rfl
@[simp] theorem issueSetTimeout_portData (s : State) : (issueSetTimeout s).portData = s.portData := rfl
@[simp] theorem issueSetTimeout_bufData (s : State) : (issueSetTimeout s).bufData = s.bufData := rfl
@[simp] theorem issueSetTimeout_freeCount (s : State) : (issueSetTimeout s).freeCount = s.freeCount := rfl

/-! ## R192: `start_exchange` -/

@[simp] theorem startExchange_cmd (n : Nat) (x : Byte) (s : State) : (startExchange n x s).cmd = s.cmd := rfl
@[simp] theorem startExchange_addr (n : Nat) (x : Byte) (s : State) : (startExchange n x s).addr = s.addr := rfl
@[simp] theorem startExchange_dataPtr (n : Nat) (x : Byte) (s : State) : (startExchange n x s).dataPtr = s.dataPtr := rfl
@[simp] theorem startExchange_dataSize (n : Nat) (x : Byte) (s : State) : (startExchange n x s).dataSize = s.dataSize := rfl
@[simp] theorem startExchange_timeoutMs (n : Nat) (x : Byte) (s : State) : (startExchange n x s).timeoutMs = s.timeoutMs := rfl
@[simp] theorem startExchange_maxRetries (n : Nat) (x : Byte) (s : State) : (startExchange n x s).maxRetries = s.maxRetries := rfl
@[simp] theorem startExchange_flags (n : Nat) (x : Byte) (s : State) : (startExchange n x s).flags = s.flags := rfl
@[simp] theorem startExchange_busy (n : Nat) (x : Byte) (s : State) : (startExchange n x s).busy = s.busy := rfl
@[simp] theorem startExchange_done (n : Nat) (x : Byte) (s : State) : (startExchange n x s).done = s.done := rfl
@[simp] theorem startExchange_chunkPending (n : Nat) (x : Byte) (s : State) : (startExchange n x s).chunkPending = s.chunkPending := rfl
@[simp] theorem startExchange_result (n : Nat) (x : Byte) (s : State) : (startExchange n x s).result = s.result := rfl
@[simp] theorem startExchange_bytesDone (n : Nat) (x : Byte) (s : State) : (startExchange n x s).bytesDone = s.bytesDone := rfl
@[simp] theorem startExchange_irqEn (n : Nat) (x : Byte) (s : State) : (startExchange n x s).irqEn = s.irqEn := rfl
@[simp] theorem startExchange_chanTimeout (n : Nat) (x : Byte) (s : State) : (startExchange n x s).chanTimeout = s.chanTimeout := rfl
@[simp] theorem startExchange_chunks (n : Nat) (x : Byte) (s : State) : (startExchange n x s).chunks = s.chunks := rfl
@[simp] theorem startExchange_engine (n : Nat) (x : Byte) (s : State) : (startExchange n x s).engine = .send := rfl
@[simp] theorem startExchange_q (n : Nat) (x : Byte) (s : State) : (startExchange n x s).q = s.q := rfl
@[simp] theorem startExchange_c (n : Nat) (x : Byte) (s : State) : (startExchange n x s).c = s.c := rfl
@[simp] theorem startExchange_k (n : Nat) (x : Byte) (s : State) : (startExchange n x s).k = s.k := rfl
@[simp] theorem startExchange_ps (n : Nat) (x : Byte) (s : State) : (startExchange n x s).ps = freshPhase s.ps := rfl
@[simp] theorem startExchange_pa (n : Nat) (x : Byte) (s : State) : (startExchange n x s).pa = freshPhase s.pa := rfl
@[simp] theorem startExchange_ls (n : Nat) (x : Byte) (s : State) : (startExchange n x s).ls = { s.ls with valid := false } := rfl
@[simp] theorem startExchange_e (n : Nat) (x : Byte) (s : State) : (startExchange n x s).e = s.e := rfl
@[simp] theorem startExchange_txbuf (n : Nat) (x : Byte) (s : State) : (startExchange n x s).txbuf = s.txbuf := rfl
@[simp] theorem startExchange_txlen (n : Nat) (x : Byte) (s : State) : (startExchange n x s).txlen = s.txlen := rfl
@[simp] theorem startExchange_rxbuf (n : Nat) (x : Byte) (s : State) : (startExchange n x s).rxbuf = s.rxbuf := rfl
@[simp] theorem startExchange_rxn (n : Nat) (x : Byte) (s : State) : (startExchange n x s).rxn = n := rfl
@[simp] theorem startExchange_expack (n : Nat) (x : Byte) (s : State) : (startExchange n x s).expack = x := rfl
@[simp] theorem startExchange_outstanding (n : Nat) (x : Byte) (s : State) : (startExchange n x s).outstanding = s.outstanding := rfl
@[simp] theorem startExchange_timeMs (n : Nat) (x : Byte) (s : State) : (startExchange n x s).timeMs = s.timeMs := rfl
@[simp] theorem startExchange_bufmem (n : Nat) (x : Byte) (s : State) : (startExchange n x s).bufmem = s.bufmem := rfl
@[simp] theorem startExchange_backed (n : Nat) (x : Byte) (s : State) : (startExchange n x s).backed = s.backed := rfl
@[simp] theorem startExchange_env (n : Nat) (x : Byte) (s : State) : (startExchange n x s).env = s.env := rfl
@[simp] theorem startExchange_portData (n : Nat) (x : Byte) (s : State) : (startExchange n x s).portData = s.portData := rfl
@[simp] theorem startExchange_bufData (n : Nat) (x : Byte) (s : State) : (startExchange n x s).bufData = s.bufData := rfl
@[simp] theorem startExchange_freeCount (n : Nat) (x : Byte) (s : State) : (startExchange n x s).freeCount = s.freeCount := rfl

/-! ## R222: the records of a new chunk -/

@[simp] theorem openChunk_cmd (p n : Nat) (x : Byte) (s : State) : (openChunk p n x s).cmd = s.cmd := rfl
@[simp] theorem openChunk_addr (p n : Nat) (x : Byte) (s : State) : (openChunk p n x s).addr = s.addr := rfl
@[simp] theorem openChunk_dataPtr (p n : Nat) (x : Byte) (s : State) : (openChunk p n x s).dataPtr = s.dataPtr := rfl
@[simp] theorem openChunk_dataSize (p n : Nat) (x : Byte) (s : State) : (openChunk p n x s).dataSize = s.dataSize := rfl
@[simp] theorem openChunk_timeoutMs (p n : Nat) (x : Byte) (s : State) : (openChunk p n x s).timeoutMs = s.timeoutMs := rfl
@[simp] theorem openChunk_maxRetries (p n : Nat) (x : Byte) (s : State) : (openChunk p n x s).maxRetries = s.maxRetries := rfl
@[simp] theorem openChunk_flags (p n : Nat) (x : Byte) (s : State) : (openChunk p n x s).flags = s.flags := rfl
@[simp] theorem openChunk_busy (p n : Nat) (x : Byte) (s : State) : (openChunk p n x s).busy = s.busy := rfl
@[simp] theorem openChunk_done (p n : Nat) (x : Byte) (s : State) : (openChunk p n x s).done = s.done := rfl
@[simp] theorem openChunk_chunkPending (p n : Nat) (x : Byte) (s : State) : (openChunk p n x s).chunkPending = s.chunkPending := rfl
@[simp] theorem openChunk_result (p n : Nat) (x : Byte) (s : State) : (openChunk p n x s).result = s.result := rfl
@[simp] theorem openChunk_bytesDone (p n : Nat) (x : Byte) (s : State) : (openChunk p n x s).bytesDone = s.bytesDone := rfl
@[simp] theorem openChunk_irqEn (p n : Nat) (x : Byte) (s : State) : (openChunk p n x s).irqEn = s.irqEn := rfl
@[simp] theorem openChunk_chanTimeout (p n : Nat) (x : Byte) (s : State) : (openChunk p n x s).chanTimeout = s.chanTimeout := rfl
@[simp] theorem openChunk_chunks (p n : Nat) (x : Byte) (s : State) : (openChunk p n x s).chunks = s.chunks := rfl
@[simp] theorem openChunk_engine (p n : Nat) (x : Byte) (s : State) : (openChunk p n x s).engine = .send := rfl
@[simp] theorem openChunk_q (p n : Nat) (x : Byte) (s : State) : (openChunk p n x s).q = s.q := rfl
@[simp] theorem openChunk_c (p n : Nat) (x : Byte) (s : State) : (openChunk p n x s).c = s.c := rfl
@[simp] theorem openChunk_k (p n : Nat) (x : Byte) (s : State) : (openChunk p n x s).k = { size := p, final := decide (p = s.c.remaining.toNat), resend := false } := rfl
@[simp] theorem openChunk_ps (p n : Nat) (x : Byte) (s : State) : (openChunk p n x s).ps = freshPhase s.ps := rfl
@[simp] theorem openChunk_pa (p n : Nat) (x : Byte) (s : State) : (openChunk p n x s).pa = freshPhase s.pa := rfl
@[simp] theorem openChunk_ls (p n : Nat) (x : Byte) (s : State) : (openChunk p n x s).ls = { s.ls with valid := false } := rfl
@[simp] theorem openChunk_e (p n : Nat) (x : Byte) (s : State) : (openChunk p n x s).e = s.e := rfl
@[simp] theorem openChunk_txbuf (p n : Nat) (x : Byte) (s : State) : (openChunk p n x s).txbuf = s.txbuf := rfl
@[simp] theorem openChunk_txlen (p n : Nat) (x : Byte) (s : State) : (openChunk p n x s).txlen = s.txlen := rfl
@[simp] theorem openChunk_rxbuf (p n : Nat) (x : Byte) (s : State) : (openChunk p n x s).rxbuf = s.rxbuf := rfl
@[simp] theorem openChunk_rxn (p n : Nat) (x : Byte) (s : State) : (openChunk p n x s).rxn = n := rfl
@[simp] theorem openChunk_expack (p n : Nat) (x : Byte) (s : State) : (openChunk p n x s).expack = x := rfl
@[simp] theorem openChunk_outstanding (p n : Nat) (x : Byte) (s : State) : (openChunk p n x s).outstanding = s.outstanding := rfl
@[simp] theorem openChunk_timeMs (p n : Nat) (x : Byte) (s : State) : (openChunk p n x s).timeMs = s.timeMs := rfl
@[simp] theorem openChunk_bufmem (p n : Nat) (x : Byte) (s : State) : (openChunk p n x s).bufmem = s.bufmem := rfl
@[simp] theorem openChunk_backed (p n : Nat) (x : Byte) (s : State) : (openChunk p n x s).backed = s.backed := rfl
@[simp] theorem openChunk_env (p n : Nat) (x : Byte) (s : State) : (openChunk p n x s).env = s.env := rfl
@[simp] theorem openChunk_portData (p n : Nat) (x : Byte) (s : State) : (openChunk p n x s).portData = s.portData := rfl
@[simp] theorem openChunk_bufData (p n : Nat) (x : Byte) (s : State) : (openChunk p n x s).bufData = s.bufData := rfl
@[simp] theorem openChunk_freeCount (p n : Nat) (x : Byte) (s : State) : (openChunk p n x s).freeCount = s.freeCount := rfl

/-! ## R142: a response taken -/

@[simp] theorem takeResponse_cmd (r : Word) (d : List Byte) (s : State) : (takeResponse r d s).cmd = s.cmd := rfl
@[simp] theorem takeResponse_addr (r : Word) (d : List Byte) (s : State) : (takeResponse r d s).addr = s.addr := rfl
@[simp] theorem takeResponse_dataPtr (r : Word) (d : List Byte) (s : State) : (takeResponse r d s).dataPtr = s.dataPtr := rfl
@[simp] theorem takeResponse_dataSize (r : Word) (d : List Byte) (s : State) : (takeResponse r d s).dataSize = s.dataSize := rfl
@[simp] theorem takeResponse_timeoutMs (r : Word) (d : List Byte) (s : State) : (takeResponse r d s).timeoutMs = s.timeoutMs := rfl
@[simp] theorem takeResponse_maxRetries (r : Word) (d : List Byte) (s : State) : (takeResponse r d s).maxRetries = s.maxRetries := rfl
@[simp] theorem takeResponse_flags (r : Word) (d : List Byte) (s : State) : (takeResponse r d s).flags = s.flags := rfl
@[simp] theorem takeResponse_busy (r : Word) (d : List Byte) (s : State) : (takeResponse r d s).busy = s.busy := rfl
@[simp] theorem takeResponse_done (r : Word) (d : List Byte) (s : State) : (takeResponse r d s).done = s.done := rfl
@[simp] theorem takeResponse_chunkPending (r : Word) (d : List Byte) (s : State) : (takeResponse r d s).chunkPending = s.chunkPending := rfl
@[simp] theorem takeResponse_result (r : Word) (d : List Byte) (s : State) : (takeResponse r d s).result = s.result := rfl
@[simp] theorem takeResponse_bytesDone (r : Word) (d : List Byte) (s : State) : (takeResponse r d s).bytesDone = s.bytesDone := rfl
@[simp] theorem takeResponse_irqEn (r : Word) (d : List Byte) (s : State) : (takeResponse r d s).irqEn = s.irqEn := rfl
@[simp] theorem takeResponse_chanTimeout (r : Word) (d : List Byte) (s : State) : (takeResponse r d s).chanTimeout = s.chanTimeout := rfl
@[simp] theorem takeResponse_chunks (r : Word) (d : List Byte) (s : State) : (takeResponse r d s).chunks = s.chunks := rfl
@[simp] theorem takeResponse_engine (r : Word) (d : List Byte) (s : State) : (takeResponse r d s).engine = s.engine := rfl
@[simp] theorem takeResponse_q (r : Word) (d : List Byte) (s : State) : (takeResponse r d s).q = s.q := rfl
@[simp] theorem takeResponse_c (r : Word) (d : List Byte) (s : State) : (takeResponse r d s).c = s.c := rfl
@[simp] theorem takeResponse_k (r : Word) (d : List Byte) (s : State) : (takeResponse r d s).k = s.k := rfl
@[simp] theorem takeResponse_ps (r : Word) (d : List Byte) (s : State) : (takeResponse r d s).ps = s.ps := rfl
@[simp] theorem takeResponse_pa (r : Word) (d : List Byte) (s : State) : (takeResponse r d s).pa = s.pa := rfl
@[simp] theorem takeResponse_ls (r : Word) (d : List Byte) (s : State) : (takeResponse r d s).ls = s.ls := rfl
@[simp] theorem takeResponse_e (r : Word) (d : List Byte) (s : State) : (takeResponse r d s).e = s.e := rfl
@[simp] theorem takeResponse_txbuf (r : Word) (d : List Byte) (s : State) : (takeResponse r d s).txbuf = s.txbuf := rfl
@[simp] theorem takeResponse_txlen (r : Word) (d : List Byte) (s : State) : (takeResponse r d s).txlen = s.txlen := rfl
@[simp] theorem takeResponse_rxbuf (r : Word) (d : List Byte) (s : State) : (takeResponse r d s).rxbuf = if r.toInt = s.rxn then overwrite s.rxbuf 0 d else s.rxbuf := rfl
@[simp] theorem takeResponse_rxn (r : Word) (d : List Byte) (s : State) : (takeResponse r d s).rxn = s.rxn := rfl
@[simp] theorem takeResponse_expack (r : Word) (d : List Byte) (s : State) : (takeResponse r d s).expack = s.expack := rfl
@[simp] theorem takeResponse_outstanding (r : Word) (d : List Byte) (s : State) : (takeResponse r d s).outstanding = none := rfl
@[simp] theorem takeResponse_timeMs (r : Word) (d : List Byte) (s : State) : (takeResponse r d s).timeMs = s.timeMs := rfl
@[simp] theorem takeResponse_bufmem (r : Word) (d : List Byte) (s : State) : (takeResponse r d s).bufmem = s.bufmem := rfl
@[simp] theorem takeResponse_backed (r : Word) (d : List Byte) (s : State) : (takeResponse r d s).backed = s.backed := rfl
@[simp] theorem takeResponse_env (r : Word) (d : List Byte) (s : State) : (takeResponse r d s).env = s.env := rfl
@[simp] theorem takeResponse_portData (r : Word) (d : List Byte) (s : State) : (takeResponse r d s).portData = s.portData := rfl
@[simp] theorem takeResponse_bufData (r : Word) (d : List Byte) (s : State) : (takeResponse r d s).bufData = s.bufData := rfl
@[simp] theorem takeResponse_freeCount (r : Word) (d : List Byte) (s : State) : (takeResponse r d s).freeCount = s.freeCount := rfl

/-! ## R235, R236: the cursor advanced -/

@[simp] theorem advance_cmd (st : Word) (a : Nat) (s : State) : (advance st a s).cmd = s.cmd := rfl
@[simp] theorem advance_addr (st : Word) (a : Nat) (s : State) : (advance st a s).addr = s.addr := rfl
@[simp] theorem advance_dataPtr (st : Word) (a : Nat) (s : State) : (advance st a s).dataPtr = s.dataPtr := rfl
@[simp] theorem advance_dataSize (st : Word) (a : Nat) (s : State) : (advance st a s).dataSize = s.dataSize := rfl
@[simp] theorem advance_timeoutMs (st : Word) (a : Nat) (s : State) : (advance st a s).timeoutMs = s.timeoutMs := rfl
@[simp] theorem advance_maxRetries (st : Word) (a : Nat) (s : State) : (advance st a s).maxRetries = s.maxRetries := rfl
@[simp] theorem advance_flags (st : Word) (a : Nat) (s : State) : (advance st a s).flags = s.flags := rfl
@[simp] theorem advance_busy (st : Word) (a : Nat) (s : State) : (advance st a s).busy = s.busy := rfl
@[simp] theorem advance_done (st : Word) (a : Nat) (s : State) : (advance st a s).done = s.done := rfl
@[simp] theorem advance_chunkPending (st : Word) (a : Nat) (s : State) : (advance st a s).chunkPending = s.chunkPending := rfl
@[simp] theorem advance_result (st : Word) (a : Nat) (s : State) : (advance st a s).result = s.result := rfl
@[simp] theorem advance_bytesDone (st : Word) (a : Nat) (s : State) : (advance st a s).bytesDone = s.c.offset + BitVec.ofNat 32 a := rfl
@[simp] theorem advance_irqEn (st : Word) (a : Nat) (s : State) : (advance st a s).irqEn = s.irqEn := rfl
@[simp] theorem advance_chanTimeout (st : Word) (a : Nat) (s : State) : (advance st a s).chanTimeout = s.chanTimeout := rfl
@[simp] theorem advance_chunks (st : Word) (a : Nat) (s : State) : (advance st a s).chunks = s.chunks + 1 := rfl
@[simp] theorem advance_engine (st : Word) (a : Nat) (s : State) : (advance st a s).engine = s.engine := rfl
@[simp] theorem advance_q (st : Word) (a : Nat) (s : State) : (advance st a s).q = s.q := rfl
@[simp] theorem advance_c (st : Word) (a : Nat) (s : State) : (advance st a s).c = { remaining := s.c.remaining - BitVec.ofNat 32 a, offset := s.c.offset + BitVec.ofNat 32 a, first := false } := rfl
@[simp] theorem advance_k (st : Word) (a : Nat) (s : State) : (advance st a s).k = s.k := rfl
@[simp] theorem advance_ps (st : Word) (a : Nat) (s : State) : (advance st a s).ps = s.ps := rfl
@[simp] theorem advance_pa (st : Word) (a : Nat) (s : State) : (advance st a s).pa = s.pa := rfl
@[simp] theorem advance_ls (st : Word) (a : Nat) (s : State) : (advance st a s).ls = s.ls := rfl
@[simp] theorem advance_e (st : Word) (a : Nat) (s : State) : (advance st a s).e = { pending := decide (s.c.remaining - BitVec.ofNat 32 a = 0) || BitVec.slt 0 st, status := st } := rfl
@[simp] theorem advance_txbuf (st : Word) (a : Nat) (s : State) : (advance st a s).txbuf = s.txbuf := rfl
@[simp] theorem advance_txlen (st : Word) (a : Nat) (s : State) : (advance st a s).txlen = s.txlen := rfl
@[simp] theorem advance_rxbuf (st : Word) (a : Nat) (s : State) : (advance st a s).rxbuf = s.rxbuf := rfl
@[simp] theorem advance_rxn (st : Word) (a : Nat) (s : State) : (advance st a s).rxn = s.rxn := rfl
@[simp] theorem advance_expack (st : Word) (a : Nat) (s : State) : (advance st a s).expack = s.expack := rfl
@[simp] theorem advance_outstanding (st : Word) (a : Nat) (s : State) : (advance st a s).outstanding = s.outstanding := rfl
@[simp] theorem advance_timeMs (st : Word) (a : Nat) (s : State) : (advance st a s).timeMs = s.timeMs := rfl
@[simp] theorem advance_bufmem (st : Word) (a : Nat) (s : State) : (advance st a s).bufmem = s.bufmem := rfl
@[simp] theorem advance_backed (st : Word) (a : Nat) (s : State) : (advance st a s).backed = s.backed := rfl
@[simp] theorem advance_env (st : Word) (a : Nat) (s : State) : (advance st a s).env = s.env := rfl
@[simp] theorem advance_portData (st : Word) (a : Nat) (s : State) : (advance st a s).portData = s.portData := rfl
@[simp] theorem advance_bufData (st : Word) (a : Nat) (s : State) : (advance st a s).bufData = s.bufData := rfl
@[simp] theorem advance_freeCount (st : Word) (a : Nat) (s : State) : (advance st a s).freeCount = s.freeCount := rfl

/-! ## R281: an accepted GO -/

@[simp] theorem acceptGo_cmd (code : Byte) (req : Request) (s : State) : (acceptGo code req s).cmd = s.cmd := rfl
@[simp] theorem acceptGo_addr (code : Byte) (req : Request) (s : State) : (acceptGo code req s).addr = s.addr := rfl
@[simp] theorem acceptGo_dataPtr (code : Byte) (req : Request) (s : State) : (acceptGo code req s).dataPtr = s.dataPtr := rfl
@[simp] theorem acceptGo_dataSize (code : Byte) (req : Request) (s : State) : (acceptGo code req s).dataSize = s.dataSize := rfl
@[simp] theorem acceptGo_timeoutMs (code : Byte) (req : Request) (s : State) : (acceptGo code req s).timeoutMs = s.timeoutMs := rfl
@[simp] theorem acceptGo_maxRetries (code : Byte) (req : Request) (s : State) : (acceptGo code req s).maxRetries = s.maxRetries := rfl
@[simp] theorem acceptGo_flags (code : Byte) (req : Request) (s : State) : (acceptGo code req s).flags = s.flags := rfl
@[simp] theorem acceptGo_busy (code : Byte) (req : Request) (s : State) : (acceptGo code req s).busy = true := rfl
@[simp] theorem acceptGo_done (code : Byte) (req : Request) (s : State) : (acceptGo code req s).done = false := rfl
@[simp] theorem acceptGo_chunkPending (code : Byte) (req : Request) (s : State) : (acceptGo code req s).chunkPending = s.chunkPending := rfl
@[simp] theorem acceptGo_result (code : Byte) (req : Request) (s : State) : (acceptGo code req s).result = s.result := rfl
@[simp] theorem acceptGo_bytesDone (code : Byte) (req : Request) (s : State) : (acceptGo code req s).bytesDone = 0 := rfl
@[simp] theorem acceptGo_irqEn (code : Byte) (req : Request) (s : State) : (acceptGo code req s).irqEn = s.irqEn := rfl
@[simp] theorem acceptGo_chanTimeout (code : Byte) (req : Request) (s : State) : (acceptGo code req s).chanTimeout = s.chanTimeout := rfl
@[simp] theorem acceptGo_chunks (code : Byte) (req : Request) (s : State) : (acceptGo code req s).chunks = 0 := rfl
@[simp] theorem acceptGo_engine (code : Byte) (req : Request) (s : State) : (acceptGo code req s).engine = s.engine := rfl
@[simp] theorem acceptGo_q (code : Byte) (req : Request) (s : State) : (acceptGo code req s).q = latch code req := rfl
@[simp] theorem acceptGo_c (code : Byte) (req : Request) (s : State) : (acceptGo code req s).c = s.c := rfl
@[simp] theorem acceptGo_k (code : Byte) (req : Request) (s : State) : (acceptGo code req s).k = s.k := rfl
@[simp] theorem acceptGo_ps (code : Byte) (req : Request) (s : State) : (acceptGo code req s).ps = s.ps := rfl
@[simp] theorem acceptGo_pa (code : Byte) (req : Request) (s : State) : (acceptGo code req s).pa = s.pa := rfl
@[simp] theorem acceptGo_ls (code : Byte) (req : Request) (s : State) : (acceptGo code req s).ls = s.ls := rfl
@[simp] theorem acceptGo_e (code : Byte) (req : Request) (s : State) : (acceptGo code req s).e = { s.e with pending := false } := rfl
@[simp] theorem acceptGo_txbuf (code : Byte) (req : Request) (s : State) : (acceptGo code req s).txbuf = s.txbuf := rfl
@[simp] theorem acceptGo_txlen (code : Byte) (req : Request) (s : State) : (acceptGo code req s).txlen = s.txlen := rfl
@[simp] theorem acceptGo_rxbuf (code : Byte) (req : Request) (s : State) : (acceptGo code req s).rxbuf = s.rxbuf := rfl
@[simp] theorem acceptGo_rxn (code : Byte) (req : Request) (s : State) : (acceptGo code req s).rxn = s.rxn := rfl
@[simp] theorem acceptGo_expack (code : Byte) (req : Request) (s : State) : (acceptGo code req s).expack = s.expack := rfl
@[simp] theorem acceptGo_outstanding (code : Byte) (req : Request) (s : State) : (acceptGo code req s).outstanding = s.outstanding := rfl
@[simp] theorem acceptGo_timeMs (code : Byte) (req : Request) (s : State) : (acceptGo code req s).timeMs = s.timeMs := rfl
@[simp] theorem acceptGo_bufmem (code : Byte) (req : Request) (s : State) : (acceptGo code req s).bufmem = s.bufmem := rfl
@[simp] theorem acceptGo_backed (code : Byte) (req : Request) (s : State) : (acceptGo code req s).backed = s.backed := rfl
@[simp] theorem acceptGo_env (code : Byte) (req : Request) (s : State) : (acceptGo code req s).env = s.env := rfl
@[simp] theorem acceptGo_portData (code : Byte) (req : Request) (s : State) : (acceptGo code req s).portData = s.portData := rfl
@[simp] theorem acceptGo_bufData (code : Byte) (req : Request) (s : State) : (acceptGo code req s).bufData = s.bufData := rfl
@[simp] theorem acceptGo_freeCount (code : Byte) (req : Request) (s : State) : (acceptGo code req s).freeCount = s.freeCount := rfl

/-! ## The next move taken off the list (log 1) -/

@[simp] theorem popMove_cmd (s : State) : (popMove s).cmd = s.cmd := rfl
@[simp] theorem popMove_addr (s : State) : (popMove s).addr = s.addr := rfl
@[simp] theorem popMove_dataPtr (s : State) : (popMove s).dataPtr = s.dataPtr := rfl
@[simp] theorem popMove_dataSize (s : State) : (popMove s).dataSize = s.dataSize := rfl
@[simp] theorem popMove_timeoutMs (s : State) : (popMove s).timeoutMs = s.timeoutMs := rfl
@[simp] theorem popMove_maxRetries (s : State) : (popMove s).maxRetries = s.maxRetries := rfl
@[simp] theorem popMove_flags (s : State) : (popMove s).flags = s.flags := rfl
@[simp] theorem popMove_busy (s : State) : (popMove s).busy = s.busy := rfl
@[simp] theorem popMove_done (s : State) : (popMove s).done = s.done := rfl
@[simp] theorem popMove_chunkPending (s : State) : (popMove s).chunkPending = s.chunkPending := rfl
@[simp] theorem popMove_result (s : State) : (popMove s).result = s.result := rfl
@[simp] theorem popMove_bytesDone (s : State) : (popMove s).bytesDone = s.bytesDone := rfl
@[simp] theorem popMove_irqEn (s : State) : (popMove s).irqEn = s.irqEn := rfl
@[simp] theorem popMove_chanTimeout (s : State) : (popMove s).chanTimeout = s.chanTimeout := rfl
@[simp] theorem popMove_chunks (s : State) : (popMove s).chunks = s.chunks := rfl
@[simp] theorem popMove_engine (s : State) : (popMove s).engine = s.engine := rfl
@[simp] theorem popMove_q (s : State) : (popMove s).q = s.q := rfl
@[simp] theorem popMove_c (s : State) : (popMove s).c = s.c := rfl
@[simp] theorem popMove_k (s : State) : (popMove s).k = s.k := rfl
@[simp] theorem popMove_ps (s : State) : (popMove s).ps = s.ps := rfl
@[simp] theorem popMove_pa (s : State) : (popMove s).pa = s.pa := rfl
@[simp] theorem popMove_ls (s : State) : (popMove s).ls = s.ls := rfl
@[simp] theorem popMove_e (s : State) : (popMove s).e = s.e := rfl
@[simp] theorem popMove_txbuf (s : State) : (popMove s).txbuf = s.txbuf := rfl
@[simp] theorem popMove_txlen (s : State) : (popMove s).txlen = s.txlen := rfl
@[simp] theorem popMove_rxbuf (s : State) : (popMove s).rxbuf = s.rxbuf := rfl
@[simp] theorem popMove_rxn (s : State) : (popMove s).rxn = s.rxn := rfl
@[simp] theorem popMove_expack (s : State) : (popMove s).expack = s.expack := rfl
@[simp] theorem popMove_outstanding (s : State) : (popMove s).outstanding = s.outstanding := rfl
@[simp] theorem popMove_timeMs (s : State) : (popMove s).timeMs = s.timeMs := rfl
@[simp] theorem popMove_bufmem (s : State) : (popMove s).bufmem = s.bufmem := rfl
@[simp] theorem popMove_backed (s : State) : (popMove s).backed = s.backed := rfl
@[simp] theorem popMove_env (s : State) : (popMove s).env = s.env.tail := rfl
@[simp] theorem popMove_portData (s : State) : (popMove s).portData = s.portData := rfl
@[simp] theorem popMove_bufData (s : State) : (popMove s).bufData = s.bufData := rfl
@[simp] theorem popMove_freeCount (s : State) : (popMove s).freeCount = s.freeCount := rfl

end Sys2Proof.Machine
end

