-- ==== Sys2Proof/Laws/Step.lean ====
section
/-! SUPPORT. What one step can do, said once: the next move, and the operation it runs. -/

namespace Sys2Proof.Machine

theorem instrOf_some (d : Decoded) (i : Instr) (h : instrOf d = some i) : d = .ok i := by
  cases d with
  | ok j => simp only [instrOf, Option.some.injEq] at h; rw [h]
  | error e => cases h

theorem decode_control (w : Word) : decode .control (le32 w) = controlOf w := by simp [decode, wordsOf_single]

theorem decode_status (w : Word) : decode .status (le32 w) = statusOf w := by simp [decode, wordsOf_single]

/-- The actions of a CONTROL word (R30). -/
theorem controlOf_ok (w : Word) (i : Instr) (h : controlOf w = .ok i) :
    (w.getLsbD 0 = true ∧ i = .go (w.getLsbD 1) (w.getLsbD 2)) ∨
    (w.getLsbD 0 = false ∧ w.getLsbD 1 = true ∧ w.getLsbD 2 = false ∧ i = .cbAck) ∨
    (w.getLsbD 0 = false ∧ w.getLsbD 1 = true ∧ w.getLsbD 2 = true ∧ i = .cbAckAbort) := by
  unfold controlOf at h
  split at h
  · cases h; exact Or.inl ⟨‹_›, rfl⟩
  · rename_i h0
    split at h
    · split at h
      · cases h; exact Or.inr (Or.inr ⟨by simpa using h0, ‹_›, ‹_›, rfl⟩)
      · rename_i h2; cases h; exact Or.inr (Or.inl ⟨by simpa using h0, ‹_›, by simpa using h2, rfl⟩)
    · cases h

/-- The action of a STATUS word (R293). -/
theorem statusOf_ok (w : Word) (i : Instr) (h : statusOf w = .ok i) : i = .doneClear ∧ w.getLsbD 1 = true := by
  unfold statusOf at h
  split at h
  · cases h; exact ⟨rfl, ‹_›⟩
  · cases h

/-- The frame the engine sends is a request frame of the running command's class. -/
theorem sendInstr_port (s : State) (i : Instr) (h : sendInstr s = some i) : i.port = .request s.q.tagged := by
  unfold sendInstr hintByte at h
  split at h
  · simp only [Option.some.injEq] at h; subst h; simp only [Instr.port]; split <;> simp_all
  split at h
  · simp only [Option.some.injEq] at h; subst h; simp only [Instr.port]; split <;> simp_all
  · exact (decodeRequest_inv _ _ _ (instrOf_some _ _ h)).2.1

/-- What a step runs, by the move that comes next. -/
inductive Took (s : State) : Res State → Prop where
  /-- An action of a CONTROL write. -/
  | control (w : Word) (i : Instr) (hm : nextMove s = .hostWrite 32 controlOffset w) (hd : controlOf w = .ok i) :
      Took s (exec i (popMove s))
  /-- A STATUS write that clears DONE. -/
  | status (w : Word) (hm : nextMove s = .hostWrite 32 statusOffset w) (hd : w.getLsbD 1 = true) : Took s (execDoneClear (popMove s))
  /-- A register write that is no action. -/
  | hostWrite (width offset : Nat) (v : Word) (hm : nextMove s = .hostWrite width offset v) (ha : admitted width offset = true) :
      Took s (.next (writeReg offset v (popMove s)))
  /-- A send attempt of a frame. -/
  | send (i : Instr) (hm : nextMove s = .engine) (he : s.engine = .send) (hi : sendInstr s = some i)
      (hp : i.port = .request s.q.tagged) : Took s (sendFrame (encode i) (popMove s))
  /-- The engine's turn where it sends no frame. -/
  | engine (hm : nextMove s = .engine) (hi : s.engine = .send → sendInstr s = none) : Took s (.next (engineTurn (popMove s)))
  /-- A register read. -/
  | hostRead (width offset : Nat) (hm : nextMove s = .hostRead width offset) (ha : admitted width offset = true) :
      Took s (.next { popMove s with portData := readReg offset (popMove s) })
  /-- An answer of the transport, whether or not it is a frame of the table. -/
  | response (r : Word) (d : List Byte) (hm : nextMove s = .response r d) : Took s (Machine.response r d (popMove s))
  /-- An answer to an abandoned request. -/
  | lateResponse (r : Word) (d : List Byte) (hm : nextMove s = .lateResponse r d) : Took s (.next (popMove s))
  /-- The time agent. -/
  | time (ms : Nat) (hm : nextMove s = .time ms) : Took s (.next { popMove s with timeMs := s.timeMs + BitVec.ofNat 32 ms })
  /-- A host store to its buffer. -/
  | bufStore (a : Word) (v : Byte) (hm : nextMove s = .bufStore a v) : Took s (hostStore a v (popMove s))
  /-- A host load of its buffer. -/
  | bufLoad (a : Word) (hm : nextMove s = .bufLoad a) : Took s (hostLoad a (popMove s))
  /-- Reset. -/
  | rst (hm : nextMove s = .rst) : Took s (.next (resetBlock (popMove s)))
  /-- A register access the block does not admit. -/
  | notAdmitted (width offset : Nat) (hm : (∃ v, nextMove s = .hostWrite width offset v) ∨ nextMove s = .hostRead width offset) :
      Took s (.refused (.hostAccessNotAdmitted width offset))

/-- Every step takes one of these. -/
theorem step_took (s : State) : Took s (step s) := by
  unfold step
  cases hf : fetch s with
  | some i =>
    simp only
    have hi := hf
    unfold fetch at hi
    split at hi
    · rename_i w o v hm
      split at hi
      · rename_i hwo
        obtain ⟨rfl, rfl⟩ := hwo
        have hd := instrOf_some _ _ hi
        rw [decode_control] at hd
        exact .control v i hm hd
      · split at hi
        · rename_i _ hwo
          obtain ⟨rfl, rfl⟩ := hwo
          have hd := instrOf_some _ _ hi
          rw [decode_status] at hd
          obtain ⟨rfl, hw⟩ := statusOf_ok v i hd
          exact .status v hm hw
        · cases hi
    · split at hi
      · rw [exec_request i _ _ (sendInstr_port s i hi)]
        exact .send i ‹_› ‹_› hi (sendInstr_port s i hi)
      · cases hi
    · split at hi
      · rename_i r d hm hc
        obtain ⟨hw, hp, henc⟩ := decodeAckFrame_inv _ _ (instrOf_some _ _ hi)
        rw [exec_ack i _ hp, henc]
        have hr : BitVec.ofNat 32 d.length = r := by
          have h248 := ack_length_le i hp hw
          rw [henc, hc.2.2] at h248
          apply BitVec.eq_of_toInt_eq
          rw [hc.2.2, toInt_ofNat_len _ h248, hc.2.1]
        have hx : Machine.response r d (popMove s) = recvResponse r d (popMove s) := by
          have he : (popMove s).engine = .recvWait := hc.1
          simp only [Machine.response, he]
        rw [hr, ← hx]
        exact .response r d hm
      · cases hi
    all_goals cases hi
  | none =>
    simp only
    cases hm : nextMove s with
    | engine => exact .engine hm (fun he => by simpa [fetch, hm, he] using hf)
    | hostWrite w o v =>
      simp only [otherMove]
      split
      · exact .hostWrite w o v hm ‹_›
      · exact .notAdmitted w o (Or.inl ⟨v, hm⟩)
    | hostRead w o =>
      simp only [otherMove]
      split
      · exact .hostRead w o hm ‹_›
      · exact .notAdmitted w o (Or.inr hm)
    | response r d => exact .response r d hm
    | lateResponse r d => exact .lateResponse r d hm
    | time ms => exact .time ms hm
    | bufStore a v => exact .bufStore a v hm
    | bufLoad a => exact .bufLoad a hm
    | rst => exact .rst hm

end Sys2Proof.Machine
end

