-- ==== Sys2Proof/Tests/Slice0.lean ====
section
/-! SUPPORT. Tests: the decoder and the encoder on words written out from the spec, ill-formed terms, one step per instruction on the spec's own
vectors (95_test_vectors.md), and for every statement with hypotheses a concrete state and operands that meet them. -/

namespace Sys2Proof.Tests

-- one theorem after another: hundreds of evaluations side by side take more threads than the memory limit allows
set_option Elab.async false

open Sys2Proof Sys2Proof.Machine Sys2Proof.Claims

/-! ## States -/

/-- The request of the worked example S1: 4 bytes at 0x100 for register 0x1000. -/
def request : Request := ⟨0x1000, 0x100, 4, 100, 3, 0⟩

/-- `s` with one move waiting. -/
def withMove (m : Move) (s : State) : State := { s with env := [m] }

/-- The idle block with a command in its registers. -/
def idle (code : Byte) (req : Request) : State :=
  { State.reset with cmd := code, addr := req.addr, dataPtr := req.ptr, dataSize := req.size, timeoutMs := req.timeout
                     maxRetries := req.retries, flags := req.flags }

/-- The bytes AA BB BB AA of S1 at 0x100. -/
def s1Memory : Memory := [(0x100, 0xAA), (0x101, 0xBB), (0x102, 0xBB), (0x103, 0xAA)]

/-- A running register command of S1's request in the engine state `e`. -/
def exchange (code : Byte) (e : EngineState) : State :=
  let f := if code = 0x01 then encode (.write none 0x1000 [0xAA, 0xBB, 0xBB, 0xAA]) else encode (.read none 0x1000 4)
  let s := { State.reset with
    busy := true, engine := e, q := latch code request, bufmem := s1Memory, txbuf := overwrite State.reset.txbuf 0 f, txlen := f.length
    rxn := if code = 0x01 then 7 else 11, expack := if code = 0x01 then 0x81 else 0x82 }
  { s with outstanding := outstandingFor s }

/-- A running stream of `size` bytes at 0x100 for address 0x4000, `offset` of them moved, in the engine state `e`. -/
def stream (code : Byte) (flags : BitVec 5) (size offset : Word) (e : EngineState) : State :=
  let p := chunkSize (size - offset)
  let s := { State.reset with
    busy := true, engine := e, chunkPending := decide (e = EngineState.cbWait), q := latch code ⟨0x4000, 0x100, size, 100, 3, flags⟩
    c := { remaining := size - offset, offset := offset, first := decide (offset = 0) }
    k := { size := p, final := decide (p = (size - offset).toNat), resend := false }
    bytesDone := offset, chunks := BitVec.ofNat 32 ((offset.toNat + 239) / 240)
    rxn := if code = 0x04 then 7 else p + 8, expack := if code = 0x04 then 0x84 else 0x88 }
  { s with outstanding := outstandingFor s }

/-- A running `SET_CHANNEL_TIMEOUT` of 2000 with `CHAN_TIMEOUT` 500 (V-HC-20). -/
def settingTimeout : State :=
  { State.reset with busy := true, engine := .ctlWait, q := latch 0x10 ⟨0, 0, 300, 2000, 0, 0⟩, chanTimeout := 500
                     outstanding := some (.setTimeout 2000) }

/-- Something about the next state of an outcome. -/
def nextHas (o : Res State) (p : State → Bool) : Bool :=
  match o with
  | .next t => p t
  | .fault _ => false
  | .refused _ => false

/-! ## WellFormed refuses ill-formed terms -/

theorem test_wf_write_payload_bound :
    Instr.wf (.write none 0 (List.replicate 240 0)) = true ∧ Instr.wf (.write none 0 (List.replicate 241 0)) = false := by decide +kernel

theorem test_wf_read_size_bound : Instr.wf (.read none 0 240) = true ∧ Instr.wf (.read none 0 241) = false := by decide +kernel

theorem test_wf_write_fifo_reserved_fop : Instr.wf (.writeFifoFrame none 7 0 [0]) = true ∧ Instr.wf (.writeFifoFrame none 8 0 [0]) = false := by decide +kernel

theorem test_wf_write_fifo_chunk_bounds :
    Instr.wf (.writeFifoFrame none 0 0 []) = false ∧ Instr.wf (.writeFifoFrame none 0 0 (List.replicate 241 0)) = false := by decide +kernel

theorem test_wf_read_fifo_bounds :
    Instr.wf (.readFifoFrame none 3 0 240) = true ∧ Instr.wf (.readFifoFrame none 3 0 0) = false ∧
    Instr.wf (.readFifoFrame none 3 0 241) = false ∧ Instr.wf (.readFifoFrame none 0x10 0 1) = false := by decide +kernel

theorem test_wf_ack_read_fits_rxbuf :
    Instr.wf (.ackRead 0 0 (List.replicate 241 0) 0) = true ∧ Instr.wf (.ackRead 0 0 (List.replicate 242 0) 0) = false := by decide +kernel

theorem test_wf_ack_read_fifo_fits_rxbuf :
    Instr.wf (.ackReadFifo 0 0 (List.replicate 240 0) 0 []) = true ∧ Instr.wf (.ackReadFifo 0 0 (List.replicate 240 0) 0 [0]) = false := by decide +kernel

theorem test_wf_ack_error_fits_rxbuf :
    Instr.wf (.ackError 0 0 (List.replicate 242 0)) = true ∧ Instr.wf (.ackError 0 0 (List.replicate 243 0)) = false := by decide +kernel

/-! ## Decoding: every constructor from bytes the spec writes out -/

/-- The register blocks of R23 to R29 with CMD.CODE 01, 02, 04, 08 and 10 (R80), ADDR 0x1000, DATA_PTR 0x100, DATA_SIZE 4, TIMEOUT_MS 100, MAX_RETRIES 3, FLAGS 0x15. -/
theorem test_decode_commands :
    let block (code : Byte) : List Byte :=
      [code, 0, 0, 0, 0x00, 0x10, 0, 0, 0x00, 0x01, 0, 0, 4, 0, 0, 0, 0x64, 0, 0, 0, 3, 0, 0, 0, 0x15, 0, 0, 0]
    let req : Request := ⟨0x1000, 0x100, 4, 100, 3, 0x15⟩
    decode .cmd (block 0x01) = .ok (.writeRegister req) ∧ decode .cmd (block 0x02) = .ok (.readRegister req) ∧
    decode .cmd (block 0x04) = .ok (.writeFifo req) ∧ decode .cmd (block 0x08) = .ok (.readFifo req) ∧
    decode .cmd (block 0x10) = .ok (.setChannelTimeout req) ∧ decode .cmd (block 0x03) = .error .illegalCode ∧
    decode .cmd (block 0x00) = .error .illegalCode := by decide +kernel

/-- CONTROL 1, 3, 7, 2, 6, 4, 0 (R30, R288, R292) and STATUS 2, 0xFD (R293, V-HC-13, V-HC-14). -/
theorem test_decode_control :
    decode .control [1, 0, 0, 0] = .ok (.go false false) ∧ decode .control [3, 0, 0, 0] = .ok (.go true false) ∧
    decode .control [7, 0, 0, 0] = .ok (.go true true) ∧ decode .control [2, 0, 0, 0] = .ok .cbAck ∧
    decode .control [6, 0, 0, 0] = .ok .cbAckAbort ∧ decode .control [4, 0, 0, 0] = .error .noAction ∧
    decode .control [0, 0, 0, 0] = .error .noAction ∧ decode .status [2, 0, 0, 0] = .ok .doneClear ∧
    decode .status [0xFD, 0, 0, 0] = .error .noAction := by decide +kernel

/-- V-ENC-2, 5, 20 and a wrong CRC, a wrong length byte, an unknown opcode and a reserved FOP bit. -/
theorem test_decode_write :
    decode (.request false) [0x06, 0x01, 0x20, 0x00, 0x00, 0x00, 0x5A, 0xF0] = .ok (.write none 0x20 [0x5A]) ∧
    decode (.request false) [0x06, 0x01, 0xFF, 0xFF, 0xFF, 0xFF, 0x00, 0x70] = .ok (.write none 0xFFFFFFFF [0]) ∧
    decode (.request true) [0x05, 0x06, 0x01, 0x20, 0x00, 0x00, 0x00, 0x5A, 0xF0] = .ok (.write (some 5) 0x20 [0x5A]) ∧
    decode (.request false) [0x06, 0x01, 0x20, 0x00, 0x00, 0x00, 0x5A, 0xF8] = .error .crcByte ∧
    decode (.request false) [0x07, 0x01, 0x20, 0x00, 0x00, 0x00, 0x5A, 0xF0] = .error .lengthByte := by decide +kernel

/-- V-ENC-7, 18. -/
theorem test_decode_read :
    decode (.request false) [0x06, 0x02, 0x00, 0x20, 0x00, 0x00, 0x04, 0x80] = .ok (.read none 0x2000 4) ∧
    decode (.request true) [0x03, 0x06, 0x02, 0x78, 0x56, 0x34, 0x12, 0x01, 0xF8] = .ok (.read (some 3) 0x12345678 1) := by decide +kernel

/-- V-ENC-15, 21. -/
theorem test_decode_write_fifo_frame :
    decode (.request false) [0x0A, 0x04, 0x07, 0x00, 0x30, 0x00, 0x00, 0x11, 0x22, 0x33, 0x44, 0xA0] =
      .ok (.writeFifoFrame none 7 0x3000 [0x11, 0x22, 0x33, 0x44]) ∧
    decode (.request true) [0x01, 0x0A, 0x04, 0x03, 0x00, 0x30, 0x00, 0x00, 0x11, 0x22, 0x33, 0x44, 0xB0] =
      .ok (.writeFifoFrame (some 1) 3 0x3000 [0x11, 0x22, 0x33, 0x44]) := by decide +kernel

/-- V-ENC-12, 22. -/
theorem test_decode_read_fifo_frame :
    decode (.request false) [0x07, 0x08, 0x04, 0x00, 0x40, 0x00, 0x00, 0xF0, 0x28] = .ok (.readFifoFrame none 4 0x4000 240) ∧
    decode (.request true) [0x02, 0x07, 0x08, 0x03, 0x00, 0x40, 0x00, 0x00, 0x10, 0xC0] = .ok (.readFifoFrame (some 2) 3 0x4000 16) := by decide +kernel

/-- V-DEC-4, 12, 18, 22, 6, 24: received frames, right or wrong in their CRC. -/
theorem test_decode_acks :
    decode .ack [0x05, 0x81, 0x00, 0x00, 0x00, 0x00, 0x61] = .ok (.ackWrite 5 0 0x61) ∧
    decode .ack [0x09, 0x82, 0x00, 0x00, 0x00, 0x00, 0xDE, 0xAD, 0xBE, 0xEF, 0x30] = .ok (.ackRead 9 0 [0xDE, 0xAD, 0xBE, 0xEF] 0x30) ∧
    decode .ack [0x05, 0x84, 0xFB, 0xFF, 0xFF, 0xFF, 0xD0] = .ok (.ackWriteFifo 5 (-5) 0xD0) ∧
    decode .ack [0x08, 0x88, 0x00, 0x00, 0x00, 0x00, 0x02, 0xA1, 0xA2, 0xB8, 0x77, 0x78] = .ok (.ackReadFifo 8 0 [0xA1, 0xA2] 0xB8 [0x77, 0x78]) ∧
    decode .ack [0x05, 0xC0, 0xFF, 0xFF, 0xFF, 0xFF, 0xE8] = .ok (.ackError 5 (-1) [0xE8]) ∧
    decode .ack [0x0A, 0x88, 0x00, 0x00, 0x00, 0x00, 0x05, 0, 0, 0, 0, 0] = .error .countBeyondFrame := by decide +kernel

/-- V-ENC-4, 8, 14, 17 and the tagged V-ENC-19: the encoder gives the spec's bytes. -/
theorem test_encode :
    encode (.write none 0x10 []) = [0x05, 0x01, 0x10, 0x00, 0x00, 0x00, 0x78] ∧
    encode (.read none 0x10 0) = [0x06, 0x02, 0x10, 0x00, 0x00, 0x00, 0x00, 0x88] ∧
    encode (.readFifoFrame none 2 0x4000 120) = [0x07, 0x08, 0x02, 0x00, 0x40, 0x00, 0x00, 0x78, 0xB8] ∧
    encode (.writeFifoFrame none 3 0x3000 [1, 2, 3, 4]) = [0x0A, 0x04, 0x03, 0x00, 0x30, 0x00, 0x00, 0x01, 0x02, 0x03, 0x04, 0xF0] ∧
    encode (.write (some 1) 0x1000 [0xAA, 0xBB, 0xBB, 0xAA]) =
      [0x01, 0x09, 0x01, 0x00, 0x10, 0x00, 0x00, 0xAA, 0xBB, 0xBB, 0xAA, 0x48] := by decide +kernel

/-- The hint values of R92. -/
theorem test_hint :
    [1, 1000, 1001, 2500, 5000, 254001, 300000, 0xFFFFFFFF].map hintOf = [1, 1, 2, 3, 5, 0xFF, 0xFF, 0xFF] := by decide +kernel

/-- V-CRC-8, 9, 10 and the flips of bits 0 and 7 of `05 81 00 00 00 00`. -/
theorem test_crc :
    crc8 [0, 0] = 0x28 ∧ crc8 [0xAA] = 0x78 ∧ crc8 [0x80] = 0x58 ∧ crc8 [0x05, 0x81, 0x01, 0, 0, 0] = 0x70 ∧
    crc8 [0x05, 0x81, 0x80, 0, 0, 0] = 0x98 ∧ crc8 [0x05, 0x81, 0x00, 0x27, 0, 0] = 0x60 := by decide +kernel

/-- The table words of GO's collision (log 17): 0x02 is CMD.CODE 0x02, 0x81 an acknowledgement, 0x06 a CONTROL word. -/
theorem test_table_words :
    decodeTableWord 8 0x04 = some (.writeFifo ⟨0, 0, 0, 0, 0, 0⟩) ∧ decodeTableWord 8 0x81 = some (.ackWrite 5 0 0x60) ∧
    decodeTableWord 8 0x06 = some .cbAckAbort ∧ decodeTableWord 8 0xC0 = some (.ackError 5 0 [crc8 [5, 0xC0, 0, 0, 0, 0]]) := by decide +kernel

/-! ## One step of each instruction -/

/-- S1: the frame `09 01 00 10 00 00 AA BB BB AA 48` stands in the send buffer (V-ENC-1). -/
theorem test_write_register :
    nextHas (exec (.writeRegister request) { State.reset with bufmem := s1Memory }) (fun t =>
      txFrame t == [0x09, 0x01, 0x00, 0x10, 0x00, 0x00, 0xAA, 0xBB, 0xBB, 0xAA, 0x48] && t.engine == .send && t.rxn == 7 && t.busy) = true := by
  decide +kernel

/-- V-REG-13: 241 bytes are refused with -2. -/
theorem test_write_register_oversized :
    nextHas (exec (.writeRegister { request with size := 241 }) State.reset) (fun t => t.result == -2 && t.done && !t.busy && t.outstanding == none) = true := by
  decide +kernel

/-- R191: `06 02 00 10 00 00 04` and 11 bytes to receive. -/
theorem test_read_register :
    nextHas (exec (.readRegister request) State.reset) (fun t =>
      (txFrame t).take 7 == [0x06, 0x02, 0x00, 0x10, 0x00, 0x00, 0x04] && t.rxn == 11 && t.expack == 0x82 && t.engine == .send) = true := by
  decide +kernel

/-- V-FIFO-3: the first chunk of 241 bytes has 240 and is not the final one; its payload is in the send buffer. -/
theorem test_write_fifo :
    nextHas (exec (.writeFifo { request with size := 241 }) { State.reset with bufmem := s1Memory }) (fun t =>
      t.k == { size := 240, final := false, resend := false } && t.c == { remaining := 241, offset := 0, first := true } &&
      (chunkPayload t).take 5 == [0xAA, 0xBB, 0xBB, 0xAA, 0] && t.rxn == 7) = true := by decide +kernel

/-- V-FIFO-7: a `READ_FIFO` of 0 bytes ends at once with `DATA_SIZE` 0. -/
theorem test_read_fifo_empty :
    nextHas (exec (.readFifo { request with size := 0 }) (idle 0x08 request)) (fun t => t.result == 0 && t.dataSize == 0 && t.done && !t.busy) = true := by
  decide +kernel

/-- R224: a `READ_FIFO` of 10 bytes waits for 18. -/
theorem test_read_fifo :
    nextHas (exec (.readFifo { request with size := 10 }) State.reset) (fun t => t.rxn == 18 && t.expack == 0x88 && t.k.final && t.engine == .send) = true := by
  decide +kernel

/-- V-HC-7, V-HC-19: no check applies, and a timeout of 0 is handed on unchanged. -/
theorem test_set_channel_timeout :
    nextHas (exec (.setChannelTimeout ⟨0, 0, 300, 0, 0, 0⟩) State.reset) (fun t => t.outstanding == some (.setTimeout 0) && t.engine == .ctlWait) = true := by
  decide +kernel

/-- V-HC-20: a negative answer leaves `CHAN_TIMEOUT` and is the result. -/
theorem test_set_channel_timeout_fails :
    nextHas (step (withMove (.response (-22) []) settingTimeout)) (fun t => t.result == -22 && t.chanTimeout == 500 && t.done) = true := by
  decide +kernel

/-- V-HC-4: `ptr + size` over 2^32 is refused at GO and `DATA_SIZE` stays. -/
theorem test_go_refused :
    nextHas (exec (.go false false) (idle 0x08 { request with ptr := 0xFFFFFFF0, size := 0x20 })) (fun t =>
      t.result == -2 && t.dataSize == 0x20 && t.done) = true := by decide +kernel

/-- V-HC-5, V-HC-12: `ptr + size` of exactly 2^32 is accepted, and the CB_ACK beside GO is ignored. -/
theorem test_go_accepted :
    nextHas (exec (.go true false) (idle 0x08 { request with ptr := 0xFFFFFFF0, size := 0x10 })) (fun t => t.busy && t.engine == .send) = true := by
  decide +kernel

/-- R239: the next chunk after CB_ACK. -/
theorem test_cb_ack :
    nextHas (exec .cbAck (stream 0x08 0x08 500 240 .cbWait)) (fun t => t.engine == .send && !t.chunkPending && t.k.size == 240 && !t.k.final) = true := by
  decide +kernel

/-- R238: ABORT ends the stream with -3, and a `READ_FIFO` reports its bytes. -/
theorem test_cb_ack_abort :
    nextHas (exec .cbAckAbort (stream 0x08 0x08 500 240 .cbWait)) (fun t => t.result == -3 && t.dataSize == 240 && t.done && !t.chunkPending) = true := by
  decide +kernel

/-- V-HC-13: DONE is cleared and the interrupt drops. -/
theorem test_done_clear :
    nextHas (exec .doneClear { State.reset with done := true, irqEn := 1 }) (fun t => !t.done && !irq t && t.irqEn == 1) = true := by decide +kernel

/-- R193: the send attempt of S1's frame, with the timeout 100. -/
theorem test_write :
    nextHas (step (exchange 0x01 .send)) (fun t => t.engine == .sendWait &&
      t.outstanding == some (.send [0x09, 0x01, 0x00, 0x10, 0x00, 0x00, 0xAA, 0xBB, 0xBB, 0xAA, 0x48] 11 100)) = true := by decide +kernel

/-- R193 for a `READ`. -/
theorem test_read :
    nextHas (step (exchange 0x02 .send)) (fun t => t.engine == .sendWait && t.txlen == 8) = true := by decide +kernel

/-- V-FIFO-1: the one chunk of a 1-byte stream carries START and END (FOP 3). -/
theorem test_write_fifo_frame :
    nextHas (step (stream 0x04 3 1 0 .send)) (fun t => (txFrame t).take 8 == [0x07, 0x04, 0x03, 0x00, 0x40, 0x00, 0x00, 0x00] && t.txlen == 9) = true := by
  decide +kernel

/-- V-ENC-10, V-ENC-14: the first and the last chunk of a `READ_FIFO`. -/
theorem test_read_fifo_frame :
    nextHas (step (stream 0x08 3 360 0 .send)) (fun t => txFrame t == [0x07, 0x08, 0x01, 0x00, 0x40, 0x00, 0x00, 0xF0, 0x50]) = true ∧
    nextHas (step (stream 0x08 3 360 240 .send)) (fun t => txFrame t == [0x07, 0x08, 0x02, 0x00, 0x40, 0x00, 0x00, 0x78, 0xB8]) = true := by
  decide +kernel

/-- V-REG-2: a warning ends the write with its status. -/
theorem test_ack_write :
    nextHas (exec (.ackWrite 5 2 0x40) (exchange 0x01 .recvWait)) (fun t => t.result == 2 && t.bytesDone == 4 && t.done && t.bufmem == s1Memory) = true := by
  decide +kernel

/-- V-REG-4: a wrong CRC is one failed attempt; the engine receives again (R17 (a)). -/
theorem test_ack_write_bad_crc :
    nextHas (exec (.ackWrite 5 0 0x61) (exchange 0x01 .recvWait)) (fun t => t.engine == .recv && t.busy && t.pa.armed && t.pa.slots == 0 && !t.ls.valid) = true := by
  decide +kernel

/-- V-DEC-12: the data lands in the buffer. -/
theorem test_ack_read :
    nextHas (exec (.ackRead 9 0 [0xDE, 0xAD, 0xBE, 0xEF] 0x30) (exchange 0x02 .recvWait)) (fun t => t.result == 0 && t.bytesDone == 4 &&
      t.bufmem == [(0x100, 0xDE), (0x101, 0xAD), (0x102, 0xBE), (0x103, 0xEF)]) = true := by decide +kernel

/-- V-DEC-13: a negative status is kept as the last status and the data is dropped. -/
theorem test_ack_read_negative :
    nextHas (exec (.ackRead 9 (-7) [1, 2, 3, 4] 0xB0) (exchange 0x02 .recvWait)) (fun t => t.ls == { valid := true, value := -7 } &&
      t.engine == .recv && t.bufmem == s1Memory) = true := by decide +kernel

/-- V-FIFO-13: a warning on the first chunk ends the stream with its status after that chunk. -/
theorem test_ack_write_fifo_warning :
    nextHas (exec (.ackWriteFifo 5 1 0xD0) (stream 0x04 3 500 0 .recvWait)) (fun t => t.result == 1 && t.bytesDone == 240 && t.chunks == 1 && t.done) = true := by
  decide +kernel

/-- V-FIFO-8, V-DEC-20: after a wrong CRC the chunk is sent again, marked as a resend. -/
theorem test_ack_write_fifo_bad_crc :
    nextHas (exec (.ackWriteFifo 5 0 0x40) (stream 0x04 7 8 0 .recvWait)) (fun t => t.engine == .send && fop t == 7) = true := by decide +kernel

/-- V-DEC-22, V-FIFO-14: two of four bytes arrive, and the next chunk asks for the other two. -/
theorem test_ack_read_fifo_short :
    nextHas (exec (.ackReadFifo 8 0 [0xA1, 0xA2] 0xB8 [0x77, 0x78]) (stream 0x08 3 4 0 .recvWait)) (fun t =>
      t.bufmem == [(0x100, 0xA1), (0x101, 0xA2)] && t.bytesDone == 2 && t.k.size == 2 && t.k.final && t.engine == .send && fop t == 2) = true := by
  decide +kernel

/-- V-DEC-23: the FIFO-empty status ends the stream with 0. -/
theorem test_ack_read_fifo_empty :
    nextHas (exec (.ackReadFifo 6 1 [] 0x80 [0, 0, 0, 0]) (stream 0x08 3 4 0 .recvWait)) (fun t =>
      t.result == 0 && t.dataSize == 0 && t.chunks == 0 && t.done) = true := by decide +kernel

/-- V-DEC-6: a device error frame is a failed attempt that does not set the last status. -/
theorem test_ack_error :
    nextHas (exec (.ackError 5 (-1) [0xE8]) (exchange 0x01 .recvWait)) (fun t => t.engine == .recv && !t.ls.valid && t.pa.armed) = true := by
  decide +kernel

/-! ## Moves that are no instruction -/

/-- V-RET-2: an elapsed time of exactly `T` counts no slot, one more millisecond does. -/
theorem test_retry_strict :
    chargePhase 100 100 { slots := 0, armed := true, t0 := 0 } = { slots := 0, armed := true, t0 := 0 } ∧
    chargePhase 101 100 { slots := 0, armed := true, t0 := 0 } = { slots := 1, armed := true, t0 := 101 } ∧
    (chargePhase 0x60 100 { slots := 0, armed := true, t0 := 0xFFFFFFF0 }).slots = 1 := by decide +kernel

/-- V-HC-9: a request register written while BUSY keeps its value. -/
theorem test_register_write_while_busy :
    nextHas (step (withMove (.hostWrite 32 4 7) (exchange 0x01 .sendWait))) (fun t => t.addr == 0 && t.env == []) = true := by decide +kernel

/-- V-RST-3: a reset in CB_WAIT keeps the buffer and does not write `DATA_SIZE` back; V-HC-17: INFO. -/
theorem test_reset_in_callback :
    nextHas (step (withMove .rst { stream 0x08 8 500 240 .cbWait with bufmem := s1Memory, dataSize := 500 })) (fun t =>
      t.bufmem == s1Memory && t.dataSize == 0 && t.engine == .idle && !t.chunkPending && readReg 0x38 t == 0x01F0FF38) = true := by decide +kernel

/-- What the host's table word runs right after reset: a command, a control word and an acknowledgement (log 18). -/
theorem test_with_fetch_word :
    fetch (State.reset.withFetchWord 8 0x10) = some (.go false false) ∧ fetch (State.reset.withFetchWord 8 0x06) = some .cbAckAbort ∧
    fetch (State.reset.withFetchWord 8 0x88) = some (.ackReadFifo 6 0 [] (crc8 [6, 0x88, 0, 0, 0, 0, 0]) []) := by decide +kernel

/-- R62, R63: with only the first three of the four payload bytes backed, the read stops at the fourth (by hand from the rules). -/
theorem test_write_register_stops_at_the_fourth_byte :
    exec (.writeRegister request) { State.reset with backed := [⟨0x100, 3⟩] } = .fault (.unbackedByte 0x103) := by rfl

/-! ## Witnesses: every statement's hypotheses are met -/

/-- The next state an outcome is known to have. -/
theorem exists_next (o : Res State) (p : State → Bool) (h : nextHas o p = true) : ∃ t, o = .next t ∧ p t = true := by
  cases o with
  | next t => exact ⟨t, rfl, h⟩
  | fault r => cases h
  | refused r => cases h

theorem inv_exchange_write (e : EngineState) (he : e ∈ [EngineState.send, .sendWait, .recv, .recvWait]) : Inv (exchange 0x01 e) := by
  have hf : txFrame (exchange 0x01 .send) = encode (.write none 0x1000 [0xAA, 0xBB, 0xBB, 0xAA]) := by decide +kernel
  have hq : RequestOk (latch 0x01 request) := ⟨by decide, fun _ => by decide, by decide, fun _ => by decide⟩
  have hx : ∀ e, e ≠ .cbWait → ExchangeOk (exchange 0x01 e) := fun e he =>
    ⟨he, (show (latch 0x01 request).size.toNat ≤ 240 by decide), ⟨rfl, rfl⟩, Or.inl ⟨rfl, rfl, rfl, [0xAA, 0xBB, 0xBB, 0xAA], rfl, hf⟩⟩
  have hb : Bounds (exchange 0x01 e) :=
    have hb : Bounds (exchange 0x01 .send) := ⟨by decide, by decide +kernel, by decide +kernel, by decide +kernel, by decide, by decide⟩
    ⟨hb.memory, hb.txbuf, hb.rxbuf, hb.txlen, hb.rxn, hb.chunk⟩
  fin_cases he <;> exact ⟨hb, rfl, rfl, fun _ => rfl, rfl, hq, Or.inl (hx _ (by decide))⟩

theorem inv_exchange_read (e : EngineState) (he : e ∈ [EngineState.send, .sendWait, .recv, .recvWait]) : Inv (exchange 0x02 e) := by
  have hf : txFrame (exchange 0x02 .send) = encode (.read none 0x1000 4) := by decide +kernel
  have hq : RequestOk (latch 0x02 request) := ⟨by decide, fun _ => by decide, by decide, fun _ => by decide⟩
  have hx : ∀ e, e ≠ .cbWait → ExchangeOk (exchange 0x02 e) := fun e he =>
    ⟨he, (show (latch 0x01 request).size.toNat ≤ 240 by decide), ⟨rfl, rfl⟩, Or.inr ⟨rfl, rfl, rfl, hf⟩⟩
  have hb : Bounds (exchange 0x02 e) :=
    have hb : Bounds (exchange 0x02 .send) := ⟨by decide, by decide +kernel, by decide +kernel, by decide +kernel, by decide, by decide⟩
    ⟨hb.memory, hb.txbuf, hb.rxbuf, hb.txlen, hb.rxn, hb.chunk⟩
  fin_cases he <;> exact ⟨hb, rfl, rfl, fun _ => rfl, rfl, hq, Or.inl (hx _ (by decide))⟩

theorem inv_stream_callback : Inv (stream 0x08 8 500 240 .cbWait) :=
  ⟨⟨by decide, by decide +kernel, by decide +kernel, by decide, by decide, by decide⟩, rfl, rfl, fun _ => rfl, rfl,
    ⟨by decide, fun _ => by decide, by decide, fun _ => by decide⟩,
    Or.inr ⟨by decide, by decide, by decide, by decide, by decide, fun h => absurd h (by decide), fun _ _ => by decide, fun h => absurd rfl h⟩⟩

theorem inv_stream_write : Inv (stream 0x04 3 500 0 .recvWait) :=
  ⟨⟨by decide, by decide +kernel, by decide +kernel, by decide, by decide, by decide⟩, rfl, rfl, fun _ => rfl, rfl,
    ⟨by decide, fun _ => by decide, by decide, fun _ => by decide⟩,
    Or.inr ⟨by decide, by decide, by decide, by decide, by decide, fun _ => by decide, fun h => absurd h (by decide),
      fun _ => ⟨by decide, by decide, by decide, Or.inl (by decide)⟩⟩⟩

theorem inv_idle : Inv (idle 0x10 request) :=
  ⟨⟨by decide, by decide +kernel, by decide +kernel, by decide, by decide, by decide⟩, rfl, rfl, fun _ => rfl, rfl, trivial⟩

theorem inv_withMove (m : Move) (s : State) (h : Inv s) : Inv (withMove m s) :=
  ⟨⟨h.bounds.memory, h.bounds.txbuf, h.bounds.rxbuf, h.bounds.txlen, h.bounds.rxn, h.bounds.chunk⟩, h.busy, h.pending, h.done, h.request, by
    have hr := h.running
    have key : ExchangeOk s ∨ StreamOk s → ExchangeOk (withMove m s) ∨ StreamOk (withMove m s) := by
      rintro (hx | hx)
      · exact Or.inl ⟨hx.noCallback, hx.size, hx.progress, hx.frame⟩
      · exact Or.inr ⟨hx.code, hx.cursor, hx.progress, hx.chunks, hx.first, hx.writeChunks, hx.callback, fun hn =>
          ⟨(hx.chunk hn).left, (hx.chunk hn).size, (hx.chunk hn).final, (hx.chunk hn).ack⟩⟩
    have he : (withMove m s).engine = s.engine := rfl
    unfold RunningOk at hr ⊢
    rw [he]
    cases hs : s.engine <;> rw [hs] at hr <;> first | exact hr | exact ⟨hr.1, key hr.2⟩⟩

theorem witness_EncodedInstructionDecodesToItself :
    Instr.wf (.write (some 255) 0xFFFFFFFF (List.replicate 240 0xAA)) = true ∧ Instr.wf (.readFifoFrame none 7 0 240) = true ∧
    Instr.wf (.ackReadFifo 0 (-1) (List.replicate 240 1) 9 []) = true ∧ Instr.wf (.ackError 0 0 []) = true := by decide +kernel

theorem witness_DecodedBytesAreTheEncoding :
    Port.ack ≠ .control ∧ Port.ack ≠ .status ∧ decode .ack [0x05, 0x84, 0xF7, 0xFF, 0xFF, 0xFF, 0x10] = .ok (.ackWriteFifo 5 (-9) 0x10) ∧
    decode (.request true) [0x03, 0x06, 0x02, 0x78, 0x56, 0x34, 0x12, 0x01, 0xF8] = .ok (.read (some 3) 0x12345678 1) := by decide +kernel

theorem witness_ActionOfAControlOrStatusWord :
    ((0xFFFFFFFF : Word).getLsbD 0 = true) ∧
    ((0xFFFFFFFA : Word).getLsbD 0 = false ∧ (0xFFFFFFFA : Word).getLsbD 1 = true ∧ (0xFFFFFFFA : Word).getLsbD 2 = false) ∧
    ((6 : Word).getLsbD 0 = false ∧ (6 : Word).getLsbD 1 = true ∧ (6 : Word).getLsbD 2 = true) ∧
    ((4 : Word).getLsbD 0 = false ∧ (4 : Word).getLsbD 1 = false) := by decide

theorem witness_RequestFrameLengthAndCrc :
    Instr.wf (.writeFifoFrame (some 1) 7 1 (List.replicate 240 0)) = true ∧ Instr.port (.writeFifoFrame (some 1) 7 1 (List.replicate 240 0)) = .request true ∧
    Instr.wf (.read none 0 0) = true ∧ Instr.port (.read none 0 0) = .request false := by decide +kernel

theorem witness_HintByteIsTheTimeoutInSeconds :
    (latch 0x01 { request with flags := 0x10, timeout := 255000 }).tagged = true ∧ (latch 0x01 request).tagged = false ∧
    (latch 0x01 { request with flags := 0x10, timeout := 255000 }).T.toNat ≤ 255000 ∧
    (latch 0x01 { request with flags := 0x10, timeout := 255001 }).tagged = true ∧
    255000 < (latch 0x01 { request with flags := 0x10, timeout := 255001 }).T.toNat := by decide

theorem witness_CrcTableIsLinear : (0x61 : Byte) &&& 7 ≠ 0 := by decide

theorem witness_CrcDetectsSingleBitErrors :
    (0x27 : Byte) ≠ 0 ∧ (7 < 8) ∧ crc8 [0x05, 0x81] = crc8 [0x05, 0x81] ∧ (0x80 : Byte) ≠ 0 ∧ (0xF8 : Byte) &&& 7 = 0 ∧ crcTab 0xF8 = crcTab 0xF8 := by decide

theorem witness_MemoryReadAfterWrite :
    Memory.wf [] = true ∧ Memory.wf [(0, 1), (4294967295, 2)] = true ∧ 4294967295 < 4294967296 ∧
    Memory.wf (memSet [(0, 1)] 0 0) = true ∧ ∀ a, memGet (memSet [(0, 1)] 0 0) a = memGet [] a :=
  ⟨by decide, by decide, by decide, by decide, fun _ => rfl⟩

/-- One witness per clause, each with the last byte of its range unbacked. -/
theorem witness_UnbackedBufferByteStops :
    let s := { idle 0x01 request with backed := [⟨0x100, 3⟩] }
    let g := { idle 0x04 request with backed := [⟨0x100, 3⟩] }
    let c := { stream 0x04 8 500 240 .cbWait with backed := [⟨0x100, 479⟩] }
    let w := { stream 0x04 0 500 0 .recvWait with backed := [⟨0x100, 479⟩] }
    let u := chunkAccepted 0 w.k.size (received (encode (.ackWriteFifo 5 0 0x38)) w)
    let r := { exchange 0x02 .recvWait with backed := [⟨0x100, 3⟩] }
    let f := { stream 0x08 0 500 480 .recvWait with backed := [⟨0x100, 483⟩] }
    let d : List Byte := [0xDE, 0xAD, 0xBE, 0xEF]
    (s.busy = false ∧ ¬ Violates 0x01 request ∧ ¬ Violates 0x04 request ∧ FirstUnbacked s request.ptr request.size.toNat 3 ∧
      FirstUnbacked s request.ptr (pieceOf request.size) 3) ∧
    (¬ Violates s.cmd (requestOf s) ∧ s.cmd = 0x01 ∧ FirstUnbacked s s.dataPtr s.dataSize.toNat 3) ∧
    (g.busy = false ∧ ¬ Violates g.cmd (requestOf g) ∧ g.cmd = 0x04 ∧ FirstUnbacked g g.dataPtr (pieceOf g.dataSize) 3) ∧
    (c.engine = .cbWait ∧ c.e.pending = false ∧ c.q.code = 0x04 ∧
      FirstUnbacked c (c.q.ptr + c.c.offset) (pieceOf c.c.remaining) 239) ∧
    (w.engine = .recvWait ∧ w.q.code = 0x04 ∧ w.rxn = 7 ∧ w.expack = 0x84 ∧ (0 : Int) ≤ (0 : Word).toInt ∧ w.q.cbEn = false ∧
      u.e.pending = false ∧ FirstUnbacked w (u.q.ptr + u.c.offset) (pieceOf u.c.remaining) 239) ∧
    (r.engine = .recvWait ∧ r.q.code = 0x02 ∧ r.expack = 0x82 ∧ r.rxn = d.length + 7 ∧ r.q.size.toNat = d.length ∧ r.rxn ≤ 248 ∧
      FirstUnbacked r r.q.ptr d.length 3) ∧
    (f.engine = .recvWait ∧ f.q.code = 0x08 ∧ f.expack = 0x88 ∧ f.rxn = d.length + (List.replicate 16 (0 : Byte)).length + 8 ∧
      f.rxn ≤ 248 ∧ d.length ≤ f.k.size ∧ FirstUnbacked f (f.q.ptr + f.c.offset) d.length 3) := by
  unfold Violates FirstUnbacked
  refine ⟨?_, ?_, ?_, ?_, ?_, ?_, ?_⟩ <;> decide +kernel

theorem witness_HostBufferAccesses :
    let s := stream 0x08 8 500 240 .cbWait
    nextMove (withMove (.bufStore 0xFF 1) s) = .bufStore 0xFF 1 ∧ isBacked (withMove (.bufStore 0xFF 1) s) 0xFF = true ∧
    inRunningBuffer s 0xFF = false ∧ inRunningBuffer s 0x100 = true ∧ inRunningBuffer s 0x2F3 = true ∧ inRunningBuffer s 0x2F4 = false ∧
    nextMove (withMove (.bufLoad 0x1EF) s) = .bufLoad 0x1EF ∧ s.chunkPending = true ∧
    (0x1EF : Word).toNat < s.q.ptr.toNat + s.bytesDone.toNat ∧ s.q.code ≠ 0x10 := by decide +kernel

theorem witness_HostReadReturnsTheRegister :
    nextMove (withMove (.hostRead 32 0) State.reset) = .hostRead 32 0 ∧ nextMove (withMove (.hostRead 32 60) State.reset) = .hostRead 32 60 ∧
    60 % 4 = 0 ∧ 60 < 64 := by decide

theorem witness_InfoIsConstantAndReservedReadsZero :
    nextMove (withMove (.hostRead 32 0x38) State.reset) = .hostRead 32 0x38 ∧ nextMove (withMove (.hostRead 32 0x3C) State.reset) = .hostRead 32 0x3C ∧
    nextMove (withMove (.hostWrite 32 0x3C 1) State.reset) = .hostWrite 32 0x3C 1 := by decide

theorem witness_HostWriteSetsTheRegister :
    let s := withMove (.hostWrite 32 0x18 0xFFFFFFFF) State.reset
    let u := withMove (.hostWrite 32 0x0C 1) (exchange 0x01 .sendWait)
    nextMove s = .hostWrite 32 0x18 0xFFFFFFFF ∧ s.busy = false ∧ nextMove u = .hostWrite 32 0x0C 1 ∧ u.busy = true ∧
    nextMove (withMove (.hostWrite 32 0x2C 3) u) = .hostWrite 32 0x2C 3 := by decide +kernel

theorem witness_RequestRegistersHeldWhileBusy :
    ∃ t, step (withMove (.response 12 [0x06, 0x88, 1, 0, 0, 0, 0, 0x80, 0, 0, 0, 0]) (stream 0x08 3 4 0 .recvWait)) = .next t ∧
      (stream 0x08 3 4 0 .recvWait).busy = true := by
  obtain ⟨t, h, _⟩ := exists_next (step (withMove (.response 12 [0x06, 0x88, 1, 0, 0, 0, 0, 0x80, 0, 0, 0, 0]) (stream 0x08 3 4 0 .recvWait)))
    (fun t => t.done) (by decide +kernel)
  exact ⟨t, h, rfl⟩

theorem witness_HostAccessOutsideTheRulesRefused :
    ((8 : Nat) ≠ 32 ∧ nextMove (withMove (.hostWrite 8 0 1) State.reset) = .hostWrite 8 0 1) ∧
    (2 % 4 ≠ 0 ∧ nextMove (withMove (.hostRead 32 2) State.reset) = .hostRead 32 2) ∧
    (64 ≤ 64 ∧ nextMove (withMove (.hostRead 32 64) State.reset) = .hostRead 32 64) := by decide

theorem witness_IrqIsALevelOfStatusAndEnable : irq { stream 0x08 8 500 240 .cbWait with irqEn := 2 } = true := by decide +kernel

theorem witness_ResetClearsTheBlockInOneStep : nextMove (withMove .rst (exchange 0x01 .sendWait)) = .rst := rfl

theorem witness_StepKeepsTheInvariant : Inv (exchange 0x01 .send) ∧ ∃ t, step (exchange 0x01 .send) = .next t := by
  obtain ⟨t, h, _⟩ := exists_next (step (exchange 0x01 .send)) (fun t => t.engine == .sendWait) (by decide +kernel)
  exact ⟨inv_exchange_write .send (by decide), t, h⟩

theorem witness_StepRunsTheDecodedInstruction :
    (nextMove (withMove (.hostWrite 32 0x1C 6) State.reset) = .hostWrite 32 0x1C 6 ∧ decode .control (le32 6) = .ok .cbAckAbort) ∧
    (nextMove (withMove (.hostWrite 32 0x20 2) State.reset) = .hostWrite 32 0x20 2 ∧ decode .status (le32 2) = .ok .doneClear) ∧
    ((idle 0x01 request).busy = false ∧
      decode .cmd (requestBlock (idle 0x01 request).cmd (requestOf (idle 0x01 request))) = .ok (.writeRegister request)) ∧
    (nextMove (exchange 0x01 .send) = .engine ∧ isStream (exchange 0x01 .send) = false ∧
      decode (.request false) ((exchange 0x01 .send).txbuf.take 11) = .ok (.write none 0x1000 [0xAA, 0xBB, 0xBB, 0xAA])) ∧
    (let d : List Byte := [0x05, 0x81, 0, 0, 0, 0, 0x60];
      nextMove (withMove (.response (BitVec.ofNat 32 d.length) d) (exchange 0x01 .recvWait)) = .response (BitVec.ofNat 32 d.length) d ∧
      d.length = (exchange 0x01 .recvWait).rxn ∧ decode .ack d = .ok (.ackWrite 5 0 0x60)) := by decide +kernel

theorem witness_GoLatchesTheRequestAndStarts :
    (let s := idle 0x01 request;
      s.busy = false ∧ s.chunkPending = false ∧ ¬ Violates s.cmd (requestOf s) ∧ rangeBacked s s.dataPtr s.dataSize.toNat = true) ∧
    (let s := idle 0x08 ⟨0, 0, 0, 0, 0, 0⟩;
      s.busy = false ∧ s.chunkPending = false ∧ ¬ Violates s.cmd (requestOf s) ∧ s.dataSize = 0) ∧
    (let s := idle 0x10 ⟨0, 0, 300, 0, 0, 0⟩;
      s.busy = false ∧ s.chunkPending = false ∧ ¬ Violates s.cmd (requestOf s)) := by unfold Violates; decide +kernel

theorem witness_ContractViolationRefusedAtGo :
    Violates 0x03 request ∧ Violates 0x04 { request with ptr := 0 } ∧ Violates 0x08 { request with ptr := 0xFFFFFFFF, size := 2 } ∧
    ¬ Violates 0x08 { request with ptr := 0xFFFFFFFF, size := 1 } ∧ Violates 0x02 { request with size := 241 } ∧
    ¬ Violates 0x02 { request with size := 240 } ∧ (idle 0x03 request).busy = false ∧
    commandOf 0x02 { request with size := 241 } = some (.readRegister { request with size := 241 }) := by
  refine ⟨?_, ?_, ?_, ?_, ?_, ?_, rfl, rfl⟩ <;> (unfold Violates; decide)

theorem witness_ContractViolationRefusedAtGo_accepted :
    ∃ t, exec (.go false false) (idle 0x02 request) = .next t ∧ t.busy = true :=
  exists_next _ (fun t => t.busy) (by decide +kernel)

theorem witness_GoIgnoredWhileBusy :
    (exchange 0x01 .sendWait).busy = true ∧ (exchange 0x01 .sendWait).engine ≠ .cbWait ∧ Instr.port (.writeFifo request) = .cmd ∧
    (stream 0x08 8 500 240 .cbWait).busy = true ∧ (stream 0x08 8 500 240 .cbWait).engine = .cbWait ∧ State.reset.busy = false := by decide +kernel

theorem witness_WriteRegisterStartsItsExchange :
    let s := { State.reset with bufmem := s1Memory }
    s.busy = false ∧ ¬ Violates 0x01 { request with size := 240 } ∧ rangeBacked s request.ptr 240 = true := by
  unfold Violates; decide +kernel

theorem witness_ReadRegisterStartsItsExchange : State.reset.busy = false ∧ ¬ Violates 0x02 { request with size := 240, ptr := 0xFFFFFF10 } := by
  unfold Violates; decide +kernel

theorem witness_WriteFifoStartsItsStream :
    State.reset.busy = false ∧ ¬ Violates 0x04 { request with size := 0, ptr := 0 } ∧ ¬ Violates 0x04 { request with size := 241 } ∧
    rangeBacked State.reset request.ptr (pieceOf 241) = true := by unfold Violates; decide +kernel

theorem witness_ReadFifoStartsItsStream :
    State.reset.busy = false ∧ ¬ Violates 0x08 { request with size := 0, ptr := 0 } ∧ ¬ Violates 0x08 { request with size := 241 } := by
  unfold Violates; decide +kernel

theorem witness_SetChannelTimeoutIssuesItsRequest : (idle 0x10 request).busy = false := rfl

theorem witness_SetChannelTimeoutAnswer :
    nextMove (withMove (.response 0 []) settingTimeout) = .response 0 [] ∧ settingTimeout.engine = .ctlWait ∧ settingTimeout.q.code = 0x10 ∧
    ¬ (0 : Word).toInt < 0 ∧ nextMove (withMove (.response (-1) []) settingTimeout) = .response (-1) [] ∧ (-1 : Word).toInt < 0 := by decide +kernel

theorem witness_CallbackReturnResumesTheStream :
    (stream 0x08 8 500 240 .cbWait).engine = .cbWait ∧ (stream 0x08 8 500 240 .cbWait).e.pending = false ∧
    { stream 0x08 8 500 240 .cbWait with e := { pending := true, status := 1 } }.e.pending = true ∧
    (let s := stream 0x04 8 500 480 .cbWait;
      s.engine = .cbWait ∧ s.e.pending = false ∧ s.q.code = 0x04 ∧ rangeBacked s (s.q.ptr + s.c.offset) (pieceOf s.c.remaining) = true) := by
  decide +kernel

theorem witness_CallbackReturnIgnoredElsewhere :
    State.reset.engine ≠ .cbWait ∧ (exchange 0x01 .sendWait).engine ≠ .cbWait ∧
    nextMove (withMove (.hostWrite 32 0x1C 4) (stream 0x08 8 500 240 .cbWait)) = .hostWrite 32 0x1C 4 ∧
    (4 : Word).getLsbD 0 = false ∧ (4 : Word).getLsbD 1 = false := by decide +kernel

theorem witness_CallbackWaitHoldsTheStream :
    Inv (stream 0x08 8 500 240 .cbWait) ∧ ∃ t, step (stream 0x08 8 500 240 .cbWait) = .next t := by
  obtain ⟨t, h, _⟩ := exists_next (step (stream 0x08 8 500 240 .cbWait)) (fun t => t.engine == .cbWait) (by decide +kernel)
  exact ⟨inv_stream_callback, t, h⟩

theorem witness_StatusWriteClearsDone :
    nextMove (withMove (.hostWrite 32 0x20 2) State.reset) = .hostWrite 32 0x20 2 ∧ (2 : Word).getLsbD 1 = true ∧
    nextMove (withMove (.hostWrite 32 0x20 0xFD) State.reset) = .hostWrite 32 0x20 0xFD ∧ (0xFD : Word).getLsbD 1 = false := by decide

theorem witness_RequestFrameIsLaidOutAndSent : (exchange 0x01 .send).engine = .send ∧ (stream 0x04 3 1 0 .send).engine = .send := by decide +kernel

theorem witness_FramesOutsideTheirStates :
    Instr.port (.read none 0 0) = .request false ∧ State.reset.engine ≠ .send ∧ Instr.port (.ackWrite 0 0 0) = .ack ∧ State.reset.engine ≠ .recvWait := by
  decide

theorem witness_ChunkSendCarriesItsFifoOp :
    (nextMove (stream 0x04 7 241 240 .send) = .engine ∧ (stream 0x04 7 241 240 .send).engine = .send ∧ (stream 0x04 7 241 240 .send).q.code = 0x04) ∧
    (nextMove (stream 0x08 7 240 0 .send) = .engine ∧ (stream 0x08 7 240 0 .send).engine = .send ∧ (stream 0x08 7 240 0 .send).q.code = 0x08) ∧
    Bounds (stream 0x04 7 241 240 .send) ∧ Bounds (stream 0x08 7 240 0 .send) :=
  ⟨by decide +kernel, by decide +kernel,
    ⟨by decide, by decide +kernel, by decide +kernel, by decide, by decide, by decide⟩,
    ⟨by decide, by decide +kernel, by decide +kernel, by decide, by decide, by decide⟩⟩

theorem witness_RegisterSendRepeatsTheSameFrame :
    (Inv (exchange 0x01 .send) ∧ nextMove (exchange 0x01 .send) = .engine ∧ (exchange 0x01 .send).engine = .send ∧ isStream (exchange 0x01 .send) = false) ∧
    (Inv (exchange 0x02 .send) ∧ nextMove (exchange 0x02 .send) = .engine ∧ (exchange 0x02 .send).engine = .send ∧ isStream (exchange 0x02 .send) = false) :=
  ⟨⟨inv_exchange_write .send (by decide), rfl, rfl, by decide +kernel⟩, ⟨inv_exchange_read .send (by decide), rfl, rfl, by decide +kernel⟩⟩

theorem witness_SendAnswerMovesOnOrFails :
    nextMove (withMove (.response 11 []) (exchange 0x01 .sendWait)) = .response 11 [] ∧ (exchange 0x01 .sendWait).engine = .sendWait ∧
    (11 : Word).toInt = (exchange 0x01 .sendWait).txlen ∧ (10 : Word).toInt ≠ (exchange 0x01 .sendWait).txlen ∧
    (-5 : Word).toInt ≠ (exchange 0x01 .sendWait).txlen := by decide +kernel

theorem witness_EngineTurnReceivesOrWaits :
    nextMove (exchange 0x01 .recv) = .engine ∧ (exchange 0x01 .recv).engine = .recv ∧ nextMove (exchange 0x01 .recvWait) = .engine ∧
    (exchange 0x01 .recvWait).engine = .recvWait ∧ nextMove State.reset = .engine ∧ State.reset.engine = .idle := by decide +kernel

/-- The four outcomes, on V-DEC-9, 5, 8 and 1. -/
theorem witness_AckOutcomeFollowsTheChecks :
    let s (f : List Byte) := { exchange 0x01 .recvWait with rxbuf := overwrite State.reset.rxbuf 0 f }
    decodeAck 6 (s [0x05, 0x81, 0, 0, 0, 0, 0x60]) = .tfail ∧ decodeAck 7 (s [0x00, 0x81, 0, 0, 0, 0, 0x18]) = .ffail ∧
    decodeAck 7 (s [0x05, 0x81, 0xFF, 0xFF, 0xFF, 0xFF, 0x30]) = .devErr (-1) ∧ decodeAck 7 (s [0x05, 0x81, 0, 0, 0, 0, 0x60]) = .ok 0 ∧
    (7 : Word).toInt = (exchange 0x01 .recvWait).rxn ∧ (-1 : Word).toInt < 0 ∧ (0 : Int) ≤ (0 : Word).toInt := by decide +kernel

theorem witness_AckWriteEndsTheWrite :
    let s := exchange 0x01 .recvWait
    s.engine = .recvWait ∧ s.q.code = 0x01 ∧ s.rxn = 7 ∧ s.expack = 0x81 ∧ (5 : Byte) ≠ 0 ∧ (0 : Int) ≤ (0x7FFFFFFF : Word).toInt := by decide +kernel

theorem witness_AckReadFillsTheBuffer :
    let s := exchange 0x02 .recvWait
    let d : List Byte := [0xDE, 0xAD, 0xBE, 0xEF]
    s.engine = .recvWait ∧ s.q.code = 0x02 ∧ s.expack = 0x82 ∧ s.rxn = d.length + 7 ∧ s.rxn ≤ 248 ∧ s.q.size.toNat = d.length ∧
    (9 : Byte) ≠ 0 ∧ (0 : Int) ≤ (0 : Word).toInt ∧ s.bufmem.wf = true ∧ s.q.ptr.toNat + d.length ≤ 4294967296 ∧
    rangeBacked s s.q.ptr d.length = true := by decide +kernel

theorem witness_AckWriteFifoAcceptsTheChunk :
    (∀ s ∈ [stream 0x04 8 500 0 .recvWait, stream 0x04 0 500 480 .recvWait, stream 0x04 0 500 0 .recvWait],
      s.engine = .recvWait ∧ s.q.code = 0x04 ∧ s.rxn = 7 ∧ s.expack = 0x84 ∧ s.chunkPending = false) ∧
    (stream 0x04 8 500 0 .recvWait).q.cbEn = true ∧
    (let s := stream 0x04 0 500 480 .recvWait;
      s.q.cbEn = false ∧ (chunkAccepted 0 s.k.size s).e.pending = true) ∧
    (let s := stream 0x04 0 500 0 .recvWait;
      s.q.cbEn = false ∧ (chunkAccepted 1 s.k.size s).e.pending = true ∧ (chunkAccepted 0 s.k.size s).e.pending = false ∧
      rangeBacked s (s.q.ptr + 240) (pieceOf 260) = true) ∧
    (0 : Int) ≤ (0 : Word).toInt := by decide +kernel

theorem witness_AckReadFifoAcceptsTheChunk :
    (∀ s ∈ [stream 0x08 8 4 0 .recvWait, stream 0x08 0 4 0 .recvWait],
      s.engine = .recvWait ∧ s.q.code = 0x08 ∧ s.expack = 0x88 ∧ s.rxn = 4 + 0 + 8 ∧ s.rxn = 2 + 2 + 8 ∧ s.rxn = 0 + 4 + 8 ∧ s.rxn ≤ 248 ∧
      4 ≤ s.k.size ∧ s.chunkPending = false ∧ s.bufmem.wf = true ∧ (s.q.ptr + s.c.offset).toNat + 4 ≤ 4294967296 ∧
      rangeBacked s (s.q.ptr + s.c.offset) 4 = true) ∧
    (stream 0x08 8 4 0 .recvWait).q.cbEn = true ∧ (stream 0x08 0 4 0 .recvWait).q.cbEn = false ∧
    (chunkAccepted 0 4 (stream 0x08 0 4 0 .recvWait)).e.pending = true ∧ (chunkAccepted 0 2 (stream 0x08 0 4 0 .recvWait)).e.pending = false := by
  decide +kernel

theorem witness_AckErrorIsNeverAccepted :
    (let s := { exchange 0x01 .recvWait with rxbuf := overwrite State.reset.rxbuf 0 [0x05, 0xC0, 0xFF, 0xFF, 0xFF, 0xFF, 0xE8] };
      s.expack ≠ 0xC0 ∧ s.rxbuf.getD 1 0 = 0xC0 ∧ (7 : Word).toInt = s.rxn) ∧
    (let s := exchange 0x01 .recvWait;
      s.engine = .recvWait ∧ s.expack ≠ 0xC0 ∧ s.rxn ≤ 248 ∧ s.rxn = [(0xE8 : Byte)].length + 6) := by decide +kernel

theorem witness_RejectedAckIsAFailedAttempt :
    let s := exchange 0x01 .recvWait
    let v (i : Instr) := received (encode i) s
    s.engine = .recvWait ∧ Instr.port (.ackRead 6 0 [1] 0) = .ack ∧ (encode (.ackRead 6 0 [1] 0)).length ≠ s.rxn ∧
    Instr.wf (.ackWrite 5 0 0x61) = true ∧ (encode (.ackWrite 5 0 0x61)).length = s.rxn ∧
    ¬ Passes (v (.ackWrite 5 0 0x61)) (v (.ackWrite 5 0 0x61)).rxbuf ∧
    Passes (v (.ackWrite 5 (-1) 0x30)) (v (.ackWrite 5 (-1) 0x30)).rxbuf ∧ (statusOfFrame (v (.ackWrite 5 (-1) 0x30)).rxbuf).toInt < 0 := by
  unfold Passes; decide +kernel

theorem witness_FailedReceiveIsAFailedAttempt :
    let s := stream 0x08 3 4 0 .recvWait
    let d : List Byte := [0x0A, 0x88, 0, 0, 0, 0, 5, 0, 0, 0, 0, 0]
    s.engine = .recvWait ∧ nextMove (withMove (.response (-121) []) s) = .response (-121) [] ∧ (-121 : Word).toInt ≠ s.rxn ∧
    nextMove (withMove (.response 12 d) s) = .response 12 d ∧ (12 : Word).toInt = s.rxn ∧ d.length = s.rxn ∧
    ¬ Passes s (d ++ s.rxbuf.drop d.length) := by unfold Passes; decide +kernel

theorem witness_RetryCountsElapsedWindows :
    ({ slots := 0, armed := false, t0 := 7 } : Phase).slots = 0 ∧ ({ slots := 0, armed := false, t0 := 7 } : Phase).armed = false ∧ (1 : Word) ≠ 0 := by
  decide

/-- V-RET-1: failures every 30 ms from 30 on, T 100, R 2: over at the ninth. -/
theorem witness_RetryLatencyIsBounded :
    (∀ j : Nat, 30 * (j + 1) ≤ 30 * (j + 1 + 1) ∧ 30 * (j + 1 + 1) ≤ 30 * (j + 1) + 30) ∧ (100 : Word).toNat + 30 < 4294967296 ∧
    0 < (2 : Word).toNat ∧
    (let after (n : Nat) : Phase := ((List.range (n + 1)).map fun j => 30 * (j + 1)).foldl
        (fun p t => chargePhase (BitVec.ofNat 32 t) 100 p) { slots := 0, armed := false, t0 := 0 };
      phaseOver 2 (after 8) = true ∧ ∀ j, j < 8 → phaseOver 2 (after j) = false) :=
  ⟨fun j => by omega, by decide, by decide, by decide +kernel, by decide +kernel⟩

theorem witness_ResultChangesOnlyAtAFinish :
    ∃ t, step (withMove (.response 7 [0x05, 0x81, 2, 0, 0, 0, 0x40]) (exchange 0x01 .recvWait)) = .next t ∧
      (t.result != (exchange 0x01 .recvWait).result) = true :=
  exists_next _ (fun t => t.result != (exchange 0x01 .recvWait).result) (by decide +kernel)

theorem witness_LatchedRequestChangesOnlyAtGo :
    ∃ t, step (withMove (.hostWrite 32 0x1C 1) (idle 0x02 request)) = .next t ∧ (t.q != (idle 0x02 request).q) = true :=
  exists_next _ (fun t => t.q != (idle 0x02 request).q) (by decide +kernel)

theorem witness_EngineWritesOnlyInsideTheBuffer :
    let s := withMove (.response 11 [0x09, 0x82, 0, 0, 0, 0, 0xDE, 0xAD, 0xBE, 0xEF, 0x30]) (exchange 0x02 .recvWait)
    Inv s ∧ nextMove s = .response 11 [0x09, 0x82, 0, 0, 0, 0, 0xDE, 0xAD, 0xBE, 0xEF, 0x30] ∧
    ∃ t, step s = .next t ∧ (memGet t.bufmem 0x103 != memGet s.bufmem 0x103) = true :=
  ⟨inv_withMove _ _ (inv_exchange_read .recvWait (by decide)), rfl,
    exists_next _ (fun t => memGet t.bufmem 0x103 != memGet s1Memory 0x103) (by decide +kernel)⟩

/-- A GO that reads the buffer, and a memory that differs from the state's right behind it. -/
theorem witness_EngineReadsOnlyInsideTheBuffer :
    let s := withMove (.hostWrite 32 0x1C 1) { idle 0x01 request with bufmem := s1Memory }
    Inv s ∧ Memory.wf (s1Memory ++ [(0x104, 1)]) = true ∧ (∃ t, step s = .next t ∧ (t.engine == .send) = true) ∧
    nextMove s = .hostWrite 32 0x1C 1 ∧
    ∀ a : Nat, s.dataPtr.toNat ≤ a → a < s.dataPtr.toNat + s.dataSize.toNat → memGet (s1Memory ++ [(0x104, 1)]) a = memGet s.bufmem a := by
  refine ⟨⟨⟨by decide, by decide +kernel, by decide +kernel, by decide, by decide, by decide⟩, rfl, rfl, fun _ => rfl, rfl, trivial⟩, by decide,
    exists_next _ (fun t => t.engine == .send) (by decide +kernel), rfl, fun a h1 h2 => ?_⟩
  have h1 : 256 ≤ a := h1
  have h2 : a < 260 := h2
  interval_cases a <;> rfl

theorem witness_OnlyReadAcksWriteMemory :
    Inv (exchange 0x01 .recvWait) ∧ ∃ t, exec (.ackWrite 5 0 0x60) (exchange 0x01 .recvWait) = .next t ∧ t.done = true :=
  ⟨inv_exchange_write .recvWait (by decide), exists_next _ (fun t => t.done) (by decide +kernel)⟩

theorem witness_OneTransportRequestAtATime :
    (Inv (exchange 0x01 .sendWait) ∧ (exchange 0x01 .sendWait).outstanding ≠ none ∧
      ∃ t, step (exchange 0x01 .sendWait) = .next t ∧ (t.outstanding != none) = true) ∧
    (Inv (exchange 0x01 .send) ∧ (exchange 0x01 .send).outstanding = none ∧ ∃ t, step (exchange 0x01 .send) = .next t ∧ (t.outstanding != none) = true) ∧
    (Inv (withMove (.hostWrite 32 0x1C 1) (idle 0x10 request)) ∧
      ∃ t, step (withMove (.hostWrite 32 0x1C 1) (idle 0x10 request)) = .next t ∧ (t.outstanding != none) = true) :=
  ⟨⟨inv_exchange_write .sendWait (by decide), by decide +kernel, exists_next _ (fun t => t.outstanding != none) (by decide +kernel)⟩,
    ⟨inv_exchange_write .send (by decide), rfl, exists_next _ (fun t => t.outstanding != none) (by decide +kernel)⟩,
    ⟨inv_withMove _ _ inv_idle, exists_next _ (fun t => t.outstanding != none) (by decide +kernel)⟩⟩

theorem witness_EveryAcceptedChunkMakesProgress :
    let s := withMove (.response 7 [0x05, 0x84, 0, 0, 0, 0, 0xC0]) (stream 0x04 3 500 0 .recvWait)
    Inv s ∧ s.busy = true ∧ nextMove s ≠ .rst ∧ ∃ t, step s = .next t ∧ (t.chunks != s.chunks) = true :=
  ⟨inv_withMove _ _ inv_stream_write, rfl, by decide +kernel, exists_next _ (fun t => t.chunks != 0) (by decide +kernel)⟩

theorem witness_TimeAndLateAnswers :
    nextMove (withMove (.time 5) State.reset) = .time 5 ∧ nextMove (withMove (.lateResponse 11 []) State.reset) = .lateResponse 11 [] ∧
    nextMove (withMove (.response 11 []) (idle 0x10 request)) = .response 11 [] ∧ Inv (withMove (.response 11 []) (idle 0x10 request)) ∧
    (idle 0x10 request).outstanding = none :=
  ⟨rfl, rfl, rfl, inv_withMove _ _ inv_idle, rfl⟩

end Sys2Proof.Tests
end

namespace Sys2Proof.Machine

/-! ## The host's register accesses -/

theorem admitted_iff (width offset : Nat) : admitted width offset = true ↔ width = 32 ∧ offset % 4 = 0 ∧ offset < 64 := by
  simp [admitted, and_assoc]

/-- A register read runs no instruction: it answers the register's word or is refused (R22). -/
theorem step_hostRead {s : State} {width offset : Nat} (hm : nextMove s = .hostRead width offset) :
    step s = if admitted width offset then .next { popMove s with portData := readReg offset s }
      else .refused (.hostAccessNotAdmitted width offset) := by
  have hf : fetch s = none := by simp [fetch, hm]
  rw [step, hf, hm]
  rfl

/-- A register write that is not to CONTROL or STATUS runs no instruction: it sets its register or is refused (R22). -/
theorem step_hostWrite {s : State} {width offset : Nat} {v : Word} (hm : nextMove s = .hostWrite width offset v)
    (hc : ¬ (width = 32 ∧ offset = controlOffset)) (hs : ¬ (width = 32 ∧ offset = statusOffset)) :
    step s = if admitted width offset then .next (writeReg offset v (popMove s))
      else .refused (.hostAccessNotAdmitted width offset) := by
  have hf : fetch s = none := by simp [fetch, hm, hc, hs]
  rw [step, hf, hm]
  rfl

/-- A write to an admitted register other than CONTROL and STATUS sets it (R23 to R39). -/
theorem step_hostWrite_register {s : State} {offset : Nat} {v : Word} (hm : nextMove s = .hostWrite 32 offset v)
    (ho : admitted 32 offset = true ∧ offset ≠ controlOffset ∧ offset ≠ statusOffset) :
    step s = .next (writeReg offset v (popMove s)) := by
  obtain ⟨ha, hc, hs⟩ := ho
  rw [step_hostWrite hm (fun h => hc h.2) (fun h => hs h.2), if_pos ha]

/-- A register that is read-only or reserved ignores a write (R32, R33, R35 to R38). -/
theorem writeReg_readOnly {offset : Nat} (v : Word) (s : State) (ho : offset ∈ [0x24, 0x28, 0x30, 0x34, 0x38, 0x3C]) :
    writeReg offset v s = s := by
  simp only [List.mem_cons, List.not_mem_nil, or_false] at ho
  rcases ho with rfl | rfl | rfl | rfl | rfl | rfl <;> simp [writeReg]

/-- The fields of STATUS below the engine state's code (R31). -/
theorem statusWord_bits (s : State) : (statusWord s).getLsbD 0 = s.busy ∧ (statusWord s).getLsbD 1 = s.done ∧
    (statusWord s).getLsbD 2 = s.chunkPending ∧ (statusWord s).getLsbD 3 = false := by
  simp [statusWord]

/-- The engine state's code stands in STATUS from bit 4 on (R31, R40). -/
theorem statusWord_shift (s : State) : statusWord s >>> 4 = (engineCode s.engine).setWidth 32 := by
  unfold statusWord
  cases s.busy <;> cases s.done <;> cases s.chunkPending <;> cases s.engine <;> rfl

/-- STATUS shows nothing above the engine state's code (R31). -/
theorem statusWord_high (s : State) : statusWord s >>> 8 = 0 := by
  have h : statusWord s >>> 8 = (statusWord s >>> 4) >>> 4 := by rw [← BitVec.shiftRight_add]
  rw [h, statusWord_shift]
  cases s.engine <;> rfl

/-! ## What an action of CONTROL does -/

/-- What a GO has started, once its request is accepted in `u` (R282 to R287). -/
inductive Dispatched (code : Byte) (req : Request) (u t : State) : Prop where
  /-- A check failed (R285). -/
  | refused (ht : t = complete (-2) u)
  | writeRegister (hc : code = 0x01) (hb : badBuffer req = false) (ho : oversized req = false) (ht : startWriteRegister u = .next t)
  | readRegister (hc : code = 0x02) (hb : badBuffer req = false) (ho : oversized req = false) (ht : startReadRegister u = .next t)
  | stream (hc : code = 0x04 ∨ code = 0x08) (hb : badBuffer req = false) (ht : startStream u = .next t)
  | setTimeout (hc : code = 0x10) (ht : t = issueSetTimeout u)

/-- A command run with BUSY clear is refused by its checks or started (R282 to R287). -/
theorem runCommand_dispatched {code : Byte} {req : Request} {bad : Bool} {start : State → Res State} {s t : State}
    (hb : s.busy = false) (h : runCommand code req bad start s = .next t)
    (hstart : bad = false → start (acceptGo code req s) = .next t → Dispatched code req (acceptGo code req s) t) :
    Dispatched code req (acceptGo code req s) t := by
  rcases runCommand_next _ _ _ _ _ _ h with ⟨hbusy, -⟩ | ⟨-, -, ht⟩ | ⟨-, hbad, ht⟩
  · simp [hb] at hbusy
  · exact .refused ht
  · exact hstart hbad ht

/-- What a GO with BUSY clear can do, by the code in CMD (R282 to R287). -/
theorem dispatchCommand_next {code : Byte} {req : Request} {s t : State} (hb : s.busy = false)
    (h : dispatchCommand code req s = .next t) : Dispatched code req (acceptGo code req s) t := by
  have passed : (badBuffer req || oversized req) = false → badBuffer req = false ∧ oversized req = false := Bool.or_eq_false_iff.1
  unfold dispatchCommand at h
  split at h
  · rename_i hc; subst hc
    exact runCommand_dispatched hb h fun hk ht => .writeRegister rfl (passed hk).1 (passed hk).2 ht
  split at h
  · rename_i hc; subst hc
    exact runCommand_dispatched hb h fun hk ht => .readRegister rfl (passed hk).1 (passed hk).2 ht
  split at h
  · rename_i hc; subst hc
    exact runCommand_dispatched hb h fun hk ht => .stream (.inl rfl) hk ht
  split at h
  · rename_i hc; subst hc
    exact runCommand_dispatched hb h fun hk ht => .stream (.inr rfl) hk ht
  split at h
  · rename_i hc; subst hc
    exact runCommand_dispatched hb h fun _ ht => .setTimeout rfl (Host.Outcome.next.inj ht).symm
  · exact runCommand_dispatched hb h fun hk _ => absurd hk (by simp)

/-- What an action of a CONTROL write can do (R287, R288, R292): nothing, the return from the callback, or a GO of the command in CMD. -/
theorem execControl_next {w : Word} {i : Instr} {s t : State} (hd : controlOf w = .ok i) (h : exec i s = .next t) :
    t = s ∨ (∃ abort, callbackReturn abort s = .next t) ∨
      (s.busy = false ∧ w.getLsbD 0 = true ∧ Dispatched s.cmd (requestOf s) (acceptGo s.cmd (requestOf s) s) t) := by
  rcases controlOf_ok w i hd with ⟨hgo, rfl⟩ | ⟨-, -, -, rfl⟩ | ⟨-, -, -, rfl⟩
  · change execGo _ _ s = .next t at h
    unfold execGo at h
    split at h
    · split at h
      · exact .inr (.inl ⟨_, h⟩)
      · exact .inl (Host.Outcome.next.inj h).symm
    · rename_i hb
      have hb : s.busy = false := by simpa using hb
      exact .inr (.inr ⟨hb, hgo, dispatchCommand_next hb h⟩)
  · exact .inr (.inl ⟨false, h⟩)
  · exact .inr (.inl ⟨true, h⟩)

/-! ## What the engine holds from GO to the end of a command -/

/-- What no step of the engine changes while a command runs: the request registers (R39), the latched request (R41) and RESULT (R32). -/
def held (s : State) : Byte × Request × Latched × Word := (s.cmd, requestOf s, s.q, s.result)

/-- The engine goes from `s` to `t`: it holds what R32, R39 and R41 say, or it ends the command with `finish` (R306). -/
def Continues (s t : State) : Prop := held t = held s ∨ ∃ st u, held u = held s ∧ t = finish st u

/-- Two states hold the same exactly when the request registers, the latched request and RESULT agree. -/
theorem held_eq_iff (s t : State) : held t = held s ↔
    t.cmd = s.cmd ∧ (t.addr = s.addr ∧ t.dataPtr = s.dataPtr ∧ t.dataSize = s.dataSize ∧ t.timeoutMs = s.timeoutMs ∧
      t.maxRetries = s.maxRetries ∧ t.flags = s.flags) ∧ t.q = s.q ∧ t.result = s.result := by
  simp [held, requestOf]

theorem Continues.same {s t : State} (h : held t = held s) : Continues s t := .inl h

theorem Continues.ends {s u : State} (st : Word) (h : held u = held s) : Continues s (finish st u) := .inr ⟨st, u, h, rfl⟩

/-- The engine may first change what is not held. -/
theorem Continues.after {s u t : State} (h : Continues u t) (hu : held u = held s) : Continues s t := by
  rcases h with h | ⟨st, v, hv, rfl⟩
  · exact .same (h.trans hu)
  · exact .ends st (hv.trans hu)

theorem startChunk_continues {s t : State} (h : startChunk s = .next t) : Continues s t := by
  rcases startChunk_next s t h with ⟨-, rfl⟩ | ⟨-, rfl⟩ <;> exact .same rfl

theorem startStream_continues {s t : State} (h : startStream s = .next t) : Continues s t := by
  rcases startStream_next s t h with ⟨-, rfl⟩ | ⟨-, h⟩
  · exact .ends 0 rfl
  · exact (startChunk_continues h).after rfl

theorem continueStream_continues {abort : Bool} {s t : State} (h : continueStream abort s = .next t) : Continues s t := by
  rcases continueStream_next abort s t h with ⟨-, rfl⟩ | ⟨-, -, rfl⟩ | ⟨-, -, h⟩
  · exact .ends _ rfl
  · exact .ends _ rfl
  · exact startChunk_continues h

theorem callbackReturn_continues {abort : Bool} {s t : State} (h : callbackReturn abort s = .next t) : Continues s t := by
  rcases callbackReturn_next abort s t h with ⟨-, h⟩ | ⟨-, rfl⟩
  · exact (continueStream_continues h).after rfl
  · exact .same rfl

theorem chunkOk_continues {st : Word} {a : Nat} {s t : State} (h : chunkOk st a s = .next t) : Continues s t := by
  rcases chunkOk_next st a s t h with ⟨-, rfl⟩ | ⟨-, m, -, ⟨-, rfl⟩ | ⟨-, h⟩⟩
  · exact .ends 0 rfl
  · exact .same rfl
  · exact (continueStream_continues h).after rfl

theorem ackAccept_continues {st : Word} {s t : State} (h : ackAccept st s = .next t) : Continues s t := by
  rcases ackAccept_next st s t h with ⟨-, h⟩ | ⟨-, h⟩ | ⟨-, -, h⟩
  · exact chunkOk_continues h
  · exact chunkOk_continues h
  · rcases regAccept_next st s t h with ⟨-, rfl⟩ | ⟨-, rfl⟩ <;> exact .ends st rfl

theorem retryOrFinish_continues (ph : Phase) (back : EngineState) (s : State) : Continues s (retryOrFinish ph back s) := by
  rcases retryOrFinish_cases ph back s with ⟨-, h⟩ | ⟨-, h⟩ <;> rw [h]
  · exact .ends _ rfl
  · exact .same rfl

theorem sendFailure_continues (s : State) : Continues s (sendFailure s) := by
  rcases sendFailure_cases s with ⟨-, h⟩ | ⟨-, -, h⟩ | ⟨-, -, h⟩ <;> rw [h]
  · exact .ends 0 rfl
  · exact (retryOrFinish_continues _ _ _).after rfl
  · exact (retryOrFinish_continues _ _ _).after rfl

theorem ackFailure_continues (s : State) : Continues s (ackFailure s) := by
  rcases ackFailure_cases s with ⟨-, h⟩ | ⟨-, -, h⟩ | ⟨-, -, h⟩ <;> rw [h]
  · exact .ends 0 rfl
  · exact (retryOrFinish_continues _ _ _).after rfl
  · exact (retryOrFinish_continues _ _ _).after rfl

theorem recvResponse_continues {r : Word} {d : List Byte} {s t : State} (h : recvResponse r d s = .next t) : Continues s t := by
  rcases recvResponse_next r d s t h with ⟨-, rfl⟩ | ⟨-, -, -, st, -, h⟩ | ⟨-, -, ls, rfl, -⟩
  · exact .same rfl
  · exact (ackAccept_continues h).after rfl
  · exact (ackFailure_continues _).after rfl

theorem sendResponse_continues (r : Word) (s : State) : Continues s (sendResponse r s) := by
  rcases sendResponse_cases r s with ⟨-, h⟩ | ⟨-, h⟩ <;> rw [h]
  · exact .same rfl
  · exact (sendFailure_continues _).after rfl

/-- What an answer of the transport can do, by the engine state that waits for it (R140, R312). -/
theorem response_next {r : Word} {d : List Byte} {s t : State} (h : response r d s = .next t) :
    (s.engine = .sendWait ∧ t = sendResponse r s) ∨ (s.engine = .recvWait ∧ recvResponse r d s = .next t) ∨
      (s.engine = .ctlWait ∧ t = ctlResponse r s) ∨ t = s := by
  unfold response at h
  split at h
  · exact .inl ⟨‹_›, (Host.Outcome.next.inj h).symm⟩
  · exact .inr (.inl ⟨‹_›, h⟩)
  · exact .inr (.inr (.inl ⟨‹_›, (Host.Outcome.next.inj h).symm⟩))
  all_goals exact .inr (.inr (.inr (Host.Outcome.next.inj h).symm))

theorem response_continues {r : Word} {d : List Byte} {s t : State} (h : response r d s = .next t) : Continues s t := by
  rcases response_next h with ⟨-, rfl⟩ | ⟨-, h⟩ | ⟨-, rfl⟩ | rfl
  · exact sendResponse_continues r s
  · exact recvResponse_continues h
  · exact .ends r rfl
  · exact .same rfl

/-- What the engine's turn can do where it sends no frame of the table (R354). -/
theorem engineTurn_cases (s : State) :
    (s.engine = .send ∧ engineTurn s = issueSend s) ∨ (s.engine = .recv ∧ engineTurn s = issueRecv s) ∨ engineTurn s = s := by
  unfold engineTurn
  split <;> simp_all

theorem engineTurn_continues (s : State) : Continues s (engineTurn s) := by
  rcases engineTurn_cases s with ⟨-, h⟩ | ⟨-, h⟩ | h <;> rw [h] <;> exact .same rfl

/-- The engine never changes the latched request of the running command (R41). -/
theorem Continues.q {s t : State} (h : Continues s t) : t.q = s.q := by
  rcases h with h | ⟨st, u, hu, rfl⟩
  · obtain ⟨-, -, hq, -⟩ := (held_eq_iff s t).1 h
    exact hq
  · obtain ⟨-, -, hq, -⟩ := (held_eq_iff s u).1 hu
    exact hq

/-- From an accepted request on, a command is refused, or the engine continues with it. -/
theorem Dispatched.continues {code : Byte} {req : Request} {u t : State} (h : Dispatched code req u t) :
    t = complete (-2) u ∨ Continues u t := by
  cases h with
  | refused ht => exact .inl ht
  | writeRegister _ _ _ ht =>
    obtain ⟨bs, -, ht⟩ := andThen_eq_next ht
    obtain rfl := Host.Outcome.next.inj ht
    exact .inr (.same rfl)
  | readRegister _ _ _ ht =>
    obtain rfl := Host.Outcome.next.inj ht
    exact .inr (.same rfl)
  | stream _ _ ht => exact .inr (startStream_continues ht)
  | setTimeout _ ht => subst ht; exact .inr (.same rfl)

/-- What a register write can change: IRQ_EN and, only while BUSY is clear, the request registers (R34, R39). -/
theorem writeReg_eq (offset : Nat) (v : Word) (s : State) : ∃ irqEn cmd req,
    writeReg offset v s =
      { s with irqEn := irqEn, cmd := cmd, addr := req.addr, dataPtr := req.ptr, dataSize := req.size, timeoutMs := req.timeout,
               maxRetries := req.retries, flags := req.flags } ∧
    (s.busy = true → cmd = s.cmd ∧ req = requestOf s) := by
  generalize h : writeReg offset v s = t
  unfold writeReg at h
  split at h
  · exact ⟨v.setWidth 2, s.cmd, requestOf s, h.symm, fun _ => ⟨rfl, rfl⟩⟩
  split at h
  · exact ⟨s.irqEn, s.cmd, requestOf s, h.symm, fun _ => ⟨rfl, rfl⟩⟩
  rename_i hb
  split at h
  · exact ⟨s.irqEn, v.setWidth 8, requestOf s, h.symm, fun hs => absurd hs hb⟩
  split at h
  · exact ⟨s.irqEn, s.cmd, { requestOf s with addr := v }, h.symm, fun hs => absurd hs hb⟩
  split at h
  · exact ⟨s.irqEn, s.cmd, { requestOf s with ptr := v }, h.symm, fun hs => absurd hs hb⟩
  split at h
  · exact ⟨s.irqEn, s.cmd, { requestOf s with size := v }, h.symm, fun hs => absurd hs hb⟩
  split at h
  · exact ⟨s.irqEn, s.cmd, { requestOf s with timeout := v }, h.symm, fun hs => absurd hs hb⟩
  split at h
  · exact ⟨s.irqEn, s.cmd, { requestOf s with retries := v }, h.symm, fun hs => absurd hs hb⟩
  split at h
  · exact ⟨s.irqEn, s.cmd, { requestOf s with flags := v.setWidth 5 }, h.symm, fun hs => absurd hs hb⟩
  · exact ⟨s.irqEn, s.cmd, requestOf s, h.symm, fun hs => absurd hs hb⟩

theorem writeReg_result (offset : Nat) (v : Word) (s : State) : (writeReg offset v s).result = s.result := by
  obtain ⟨_, _, _, h, -⟩ := writeReg_eq offset v s
  rw [h]

theorem writeReg_q (offset : Nat) (v : Word) (s : State) : (writeReg offset v s).q = s.q := by
  obtain ⟨_, _, _, h, -⟩ := writeReg_eq offset v s
  rw [h]

theorem writeReg_held_of_busy (offset : Nat) (v : Word) {s : State} (hb : s.busy = true) : held (writeReg offset v s) = held s := by
  obtain ⟨_, _, _, h, hbusy⟩ := writeReg_eq offset v s
  obtain ⟨rfl, rfl⟩ := hbusy hb
  rw [h]
  rfl

/-- What one step can do to the request registers, the latched request and RESULT. -/
inductive StepEffect (s t : State) : Prop where
  /-- The engine continues, or another agent moves. -/
  | continues (h : Continues s t)
  /-- An accepted GO (R281). -/
  | go (hb : s.busy = false) (w : Word) (hm : nextMove s = .hostWrite 32 0x1C w) (hw : w.getLsbD 0 = true)
      (h : Dispatched s.cmd (requestOf s) (acceptGo s.cmd (requestOf s) (popMove s)) t)
  /-- A register write that is no action (R34, R39). -/
  | hostWrite (offset : Nat) (v : Word) (h : t = writeReg offset v (popMove s))
  /-- Reset (R340). -/
  | rst (hm : nextMove s = .rst) (h : t = resetBlock (popMove s))

/-- Every step that answers a next state has one of these effects. -/
theorem step_effect {s t : State} (h : step s = .next t) : StepEffect s t := by
  have took := step_took s
  generalize step s = o at h took
  have kept {u : State} (h : (.next u : Res State) = .next t) (hu : held u = held s) : StepEffect s t := by
    obtain rfl := Host.Outcome.next.inj h
    exact .continues (.same hu)
  cases took with
  | control w i hm hd =>
    rcases execControl_next hd h with rfl | ⟨abort, hk⟩ | ⟨hb, hw, hk⟩
    · exact .continues (.same rfl)
    · exact .continues ((callbackReturn_continues hk).after rfl)
    · exact .go hb w hm hw hk
  | status w hm hd => exact kept h rfl
  | hostWrite width offset v hm ha => exact .hostWrite offset v (Host.Outcome.next.inj h).symm
  | send i hm he hi hp =>
    obtain ⟨-, rfl⟩ := sendFrame_next _ _ _ h
    exact .continues (.same rfl)
  | engine hm hi =>
    obtain rfl := Host.Outcome.next.inj h
    exact .continues ((engineTurn_continues _).after rfl)
  | hostRead width offset hm ha => exact kept h rfl
  | response r d hm => exact .continues ((response_continues h).after rfl)
  | lateResponse r d hm => exact kept h rfl
  | time ms hm => exact kept h rfl
  | bufStore a v hm =>
    obtain ⟨-, -, rfl⟩ := hostStore_next a v _ _ h
    exact .continues (.same rfl)
  | bufLoad a hm =>
    obtain ⟨-, v, n, rfl⟩ := hostLoad_next a _ _ h
    exact .continues (.same rfl)
  | rst hm => exact .rst hm (Host.Outcome.next.inj h).symm
  | notAdmitted => cases h

/-! ## The invariant, in the pieces a step moves between -/

/-- What a command's frame, cursor and acknowledgement depend on; the send buffer only matters to a register command,
whose frame stands in it (R193), while a chunk's frame is formed anew (R225). -/
structure SameCommand (s t : State) : Prop where
  q : t.q = s.q := by rfl
  c : t.c = s.c := by rfl
  e : t.e = s.e := by rfl
  bytesDone : t.bytesDone = s.bytesDone := by rfl
  chunks : t.chunks = s.chunks := by rfl
  size : t.k.size = s.k.size := by rfl
  final : t.k.final = s.k.final := by rfl
  rxn : t.rxn = s.rxn := by rfl
  expack : t.expack = s.expack := by rfl
  frame : isFifo s.q.code = false → txFrame t = txFrame s := by exact fun _ => rfl
  callback : t.engine = .cbWait ↔ s.engine = .cbWait := by exact Iff.rfl

/-- What a running data command keeps, in every engine state but CTL_WAIT. -/
def DataOk (s : State) : Prop := RequestOk s.q ∧ (ExchangeOk s ∨ StreamOk s)

theorem ExchangeOk.notFifo {s : State} (h : ExchangeOk s) : isFifo s.q.code = false := by
  rcases h.frame with ⟨hc, -⟩ | ⟨hc, -⟩ <;> rw [hc] <;> rfl

theorem ExchangeOk.sameCommand {s t : State} (h : ExchangeOk s) (hs : SameCommand s t) : ExchangeOk t where
  noCallback := mt hs.callback.1 h.noCallback
  size := by rw [hs.q]; exact h.size
  progress := by rw [hs.bytesDone, hs.chunks]; exact h.progress
  frame := by rw [hs.q, hs.rxn, hs.expack, hs.frame h.notFifo]; exact h.frame

theorem ChunkOk.sameCommand {s t : State} (h : ChunkOk s) (hs : SameCommand s t) : ChunkOk t where
  left := by rw [hs.c]; exact h.left
  size := by rw [hs.c, hs.size]; exact h.size
  final := by rw [hs.c, hs.size, hs.final]; exact h.final
  ack := by rw [hs.q, hs.rxn, hs.expack, hs.size]; exact h.ack

/-- Where a stream stands between the records of its chunks: what `StreamOk` says of the cursor and the progress registers. -/
structure StreamAt (s : State) : Prop where
  code : s.q.code = 0x04 ∨ s.q.code = 0x08
  cursor : s.c.offset.toNat + s.c.remaining.toNat = s.q.size.toNat
  progress : s.bytesDone = s.c.offset
  chunks : s.chunks.toNat ≤ s.c.offset.toNat
  first : s.c.first = decide (s.c.offset = 0)
  writeChunks : s.q.code = 0x04 → s.chunks.toNat = (s.c.offset.toNat + 239) / 240 ∧
    (s.c.remaining ≠ 0 → s.c.offset.toNat % 240 = 0)

theorem StreamOk.streamAt {s : State} (h : StreamOk s) : StreamAt s :=
  ⟨h.code, h.cursor, h.progress, h.chunks, h.first, h.writeChunks⟩

theorem StreamAt.streamOk {s : State} (h : StreamAt s) (hcallback : s.engine = .cbWait → s.e.pending = false → s.c.remaining ≠ 0)
    (hchunk : s.engine ≠ .cbWait → ChunkOk s) : StreamOk s :=
  ⟨h.code, h.cursor, h.progress, h.chunks, h.first, h.writeChunks, hcallback, hchunk⟩

theorem StreamAt.same {s t : State} (h : StreamAt s) (hq : t.q = s.q := by rfl) (hc : t.c = s.c := by rfl)
    (hb : t.bytesDone = s.bytesDone := by rfl) (hn : t.chunks = s.chunks := by rfl) : StreamAt t where
  code := by rw [hq]; exact h.code
  cursor := by rw [hc, hq]; exact h.cursor
  progress := by rw [hc, hb]; exact h.progress
  chunks := by rw [hc, hn]; exact h.chunks
  first := by rw [hc]; exact h.first
  writeChunks := by rw [hq, hc, hn]; exact h.writeChunks

theorem StreamOk.sameCommand {s t : State} (h : StreamOk s) (hs : SameCommand s t) : StreamOk t := by
  refine (h.streamAt.same hs.q hs.c hs.bytesDone hs.chunks).streamOk ?_ fun he => (h.chunk (mt hs.callback.2 he)).sameCommand hs
  rw [hs.callback, hs.e, hs.c]
  exact h.callback

theorem DataOk.sameCommand {s t : State} (h : DataOk s) (hs : SameCommand s t) : DataOk t := by
  obtain ⟨hq, hx⟩ := h
  exact ⟨hs.q ▸ hq, hx.imp (·.sameCommand hs) (·.sameCommand hs)⟩

theorem runningOk_iff_dataOk {s : State} (hi : s.engine ≠ .idle) (hc : s.engine ≠ .ctlWait) : RunningOk s ↔ DataOk s := by
  unfold RunningOk DataOk
  cases he : s.engine <;> simp_all

theorem Bounds.same {s t : State} (h : Bounds s) (hm : s.bufmem.wf = true → t.bufmem.wf = true := by exact id)
    (htx : t.txbuf = s.txbuf := by rfl) (hrx : t.rxbuf = s.rxbuf := by rfl) (htl : t.txlen = s.txlen := by rfl)
    (hrn : t.rxn = s.rxn := by rfl) (hk : t.k.size = s.k.size := by rfl) : Bounds t where
  memory := hm h.memory
  txbuf := htx ▸ h.txbuf
  rxbuf := hrx ▸ h.rxbuf
  txlen := htl ▸ h.txlen
  rxn := hrn ▸ h.rxn
  chunk := hk ▸ h.chunk

/-! ### Moves that leave the engine where it is -/

/-- `t` differs from `s` in nothing the engine reads but the bytes of buffer memory, and DONE may have been cleared. -/
structure Quiet (s t : State) : Prop extends SameCommand s t where
  engine : t.engine = s.engine := by rfl
  busy : t.busy = s.busy := by rfl
  pending : t.chunkPending = s.chunkPending := by rfl
  done : s.done = false → t.done = false := by exact id
  outstanding : t.outstanding = s.outstanding := by rfl
  txbuf : t.txbuf = s.txbuf := by rfl
  txlen : t.txlen = s.txlen := by rfl
  rxbuf : t.rxbuf = s.rxbuf := by rfl
  memory : s.bufmem.wf = true → t.bufmem.wf = true := by exact id

theorem Inv.quiet {s t : State} (h : Inv s) (hs : Quiet s t) : Inv t := by
  obtain ⟨hbounds, hbusy, hpending, hdone, hreq, hrun⟩ := h
  have hframe : txFrame t = txFrame s := by rw [txFrame, txFrame, hs.txbuf, hs.txlen]
  refine ⟨hbounds.same hs.memory hs.txbuf hs.rxbuf hs.txlen hs.rxn hs.size, ?_, ?_, fun he => ?_, ?_, ?_⟩
  · rw [hs.busy, hs.engine, hbusy]
  · rw [hs.pending, hs.engine, hpending]
  · exact hs.done (hdone (hs.engine ▸ he))
  · simp only [outstandingFor, hs.outstanding, hreq, hs.engine, hframe, hs.txlen, hs.rxn, hs.q]
  · have hdata (h : DataOk s) : DataOk t := h.sameCommand hs.toSameCommand
    unfold RunningOk at hrun ⊢
    rw [hs.engine]
    cases he : s.engine <;> simp only [he] at hrun ⊢
    case ctlWait => rw [hs.q]; exact hrun
    all_goals exact hdata hrun

/-! ### A command between two engine states -/

/-- A command runs, its chunk callback is not pending, and no request is outstanding. -/
structure Live (s : State) : Prop where
  bounds : Bounds s
  busy : s.busy = true
  pending : s.chunkPending = false
  done : s.done = false
  outstanding : s.outstanding = none

/-- A data command runs an exchange or a chunk, and the request it issued last is answered. -/
structure Exchanging (s : State) : Prop extends Live s where
  noCallback : s.engine ≠ .cbWait
  data : DataOk s

/-- A stream has closed one chunk and not yet opened the next (R239). -/
structure Between (s : State) : Prop extends Live s where
  request : RequestOk s.q
  stream : StreamAt s
  left : s.e.pending = false → s.c.remaining ≠ 0

theorem Live.same {s t : State} (h : Live s) (hb : Bounds t) (hbusy : t.busy = s.busy := by rfl)
    (hp : t.chunkPending = s.chunkPending := by rfl) (hd : t.done = s.done := by rfl)
    (ho : t.outstanding = s.outstanding := by rfl) : Live t where
  bounds := hb
  busy := hbusy.trans h.busy
  pending := hp.trans h.pending
  done := hd.trans h.done
  outstanding := ho.trans h.outstanding

/-- An idle block meets the invariant (R306, R343). -/
theorem Inv.of_idle {s : State} (hb : Bounds s) (he : s.engine = .idle) (hbusy : s.busy = false) (hp : s.chunkPending = false)
    (ho : s.outstanding = none) : Inv s where
  bounds := hb
  busy := by rw [hbusy, he]; rfl
  pending := by rw [hp, he]; rfl
  done := fun h => absurd he h
  request := by rw [ho, outstandingFor, he]
  running := by rw [RunningOk, he]; trivial

/-- A data command outside its callback meets the invariant when the outstanding request is its engine state's. -/
theorem Inv.of_data {s : State} (hb : Bounds s) (hbusy : s.busy = true) (hp : s.chunkPending = false) (hd : s.done = false)
    (he : s.engine ∉ [.idle, .cbWait, .ctlWait]) (ho : s.outstanding = outstandingFor s) (hdata : DataOk s) : Inv s := by
  simp only [List.mem_cons, List.not_mem_nil, or_false, not_or] at he
  obtain ⟨hi, hc, ht⟩ := he
  exact ⟨hb, by rw [hbusy, decide_eq_true hi], by rw [hp, decide_eq_false hc], fun _ => hd, ho, (runningOk_iff_dataOk hi ht).2 hdata⟩

/-- With BUSY clear the engine is idle (R31). -/
theorem Inv.engine_of_not_busy {s : State} (h : Inv s) (hb : s.busy = false) : s.engine = .idle := by
  simpa [h.busy] using hb

theorem Live.inv_complete {s : State} (h : Live s) (st : Word) : Inv (complete st s) :=
  .of_idle h.bounds.same rfl rfl rfl h.outstanding

theorem Live.inv_finish {s : State} (h : Live s) (st : Word) : Inv (finish st s) :=
  .of_idle h.bounds.same rfl rfl rfl h.outstanding

/-- A data command whose request is answered, in any state that has the same command and nothing outstanding. -/
theorem Inv.exchanging {s t : State} (h : Inv s) (he : s.engine ∉ [.idle, .cbWait, .ctlWait]) (hs : SameCommand s t) (hb : Bounds t)
    (ho : t.outstanding = none) (hbusy : t.busy = s.busy := by rfl) (hp : t.chunkPending = s.chunkPending := by rfl)
    (hd : t.done = s.done := by rfl) : Exchanging t := by
  simp only [List.mem_cons, List.not_mem_nil, or_false, not_or] at he
  obtain ⟨hi, hc, ht⟩ := he
  refine ⟨⟨hb, ?_, ?_, ?_, ho⟩, mt hs.callback.1 hc, ((runningOk_iff_dataOk hi ht).1 h.running).sameCommand hs⟩
  · rw [hbusy, h.busy, decide_eq_true hi]
  · rw [hp, h.pending, decide_eq_false hc]
  · rw [hd, h.done hi]

theorem Exchanging.streamOk {s : State} (h : Exchanging s) (hf : isFifo s.q.code = true) : StreamOk s := by
  rcases h.data.2 with hx | hx
  · rw [hx.notFifo] at hf; cases hf
  · exact hx

/-! ### Attempts and failures -/

theorem Exchanging.inv_issueSend {s : State} (h : Exchanging s) : Inv (issueSend s) :=
  .of_data h.bounds.same h.busy h.pending h.done (by simp) rfl (h.data.sameCommand { callback := by simp [h.noCallback] })

theorem Exchanging.inv_issueRecv {s : State} (h : Exchanging s) : Inv (issueRecv s) :=
  .of_data h.bounds.same h.busy h.pending h.done (by simp) rfl (h.data.sameCommand { callback := by simp [h.noCallback] })

/-- The engine goes on in SEND or RECV. -/
theorem Exchanging.inv_at {s : State} (h : Exchanging s) {e : EngineState} (he : e = .send ∨ e = .recv) : Inv { s with engine := e } := by
  have hdata : DataOk { s with engine := e } :=
    h.data.sameCommand { callback := by rcases he with rfl | rfl <;> simp [h.noCallback] }
  rcases he with rfl | rfl
  · exact .of_data h.bounds.same h.busy h.pending h.done (by simp) h.outstanding hdata
  · exact .of_data h.bounds.same h.busy h.pending h.done (by simp) h.outstanding hdata

theorem Exchanging.inv_retryOrFinish {s : State} (h : Exchanging s) (ph : Phase) {back : EngineState}
    (hback : back = .send ∨ back = .recv) : Inv (retryOrFinish ph back s) := by
  rcases retryOrFinish_cases ph back s with ⟨-, hr⟩ | ⟨-, hr⟩ <;> rw [hr]
  · exact h.inv_finish _
  · exact h.inv_at hback

/-- The phase records, the resend bit and the last status are no part of what a command keeps. -/
theorem Exchanging.same {s t : State} (h : Exchanging s) (hs : SameCommand s t) (hb : Bounds t) (hbusy : t.busy = s.busy := by rfl)
    (hp : t.chunkPending = s.chunkPending := by rfl) (hd : t.done = s.done := by rfl)
    (ho : t.outstanding = s.outstanding := by rfl) : Exchanging t :=
  ⟨h.toLive.same hb hbusy hp hd ho, mt hs.callback.1 h.noCallback, h.data.sameCommand hs⟩

theorem Exchanging.inv_sendFailure {s : State} (h : Exchanging s) : Inv (sendFailure s) := by
  rcases sendFailure_cases s with ⟨-, hf⟩ | ⟨-, -, hf⟩ | ⟨-, -, hf⟩ <;> rw [hf]
  · exact h.inv_finish 0
  · exact (h.same {} h.bounds.same).inv_retryOrFinish _ (.inl rfl)
  · exact (h.same {} h.bounds.same).inv_retryOrFinish _ (.inl rfl)

theorem Exchanging.inv_ackFailure {s : State} (h : Exchanging s) : Inv (ackFailure s) := by
  rcases ackFailure_cases s with ⟨-, hf⟩ | ⟨-, -, hf⟩ | ⟨-, -, hf⟩ <;> rw [hf]
  · exact h.inv_finish 0
  · exact (h.same {} h.bounds.same).inv_retryOrFinish _ (.inl rfl)
  · exact (h.same {} h.bounds.same).inv_retryOrFinish _ (.inr rfl)

/-! ### Frames -/

theorem txFrame_loadFrame (f : List Byte) (s : State) : txFrame (loadFrame f s) = f := overwrite_take s.txbuf f

theorem Bounds.loadFrame {s : State} (h : Bounds s) {f : List Byte} (hf : f.length ≤ 249) : Bounds (loadFrame f s) where
  memory := h.memory
  txbuf := (overwrite_length s.txbuf f 0 (by rw [h.txbuf]; omega)).trans h.txbuf
  rxbuf := h.rxbuf
  txlen := hf
  rxn := h.rxn
  chunk := h.chunk

/-- A well-formed request frame fits the send buffer (R15). -/
theorem request_length_le {i : Instr} {tagged : Bool} (hp : i.port = .request tagged) (hw : i.wf = true) :
    (encode i).length ≤ 249 := by
  cases i with
  | write hint addr payload => exact (Laws.EncodeSize.write hint addr payload hw).2
  | read hint addr size => exact (Laws.EncodeSize.read hint addr size hw).2
  | writeFifoFrame hint fop addr payload => exact (Laws.EncodeSize.writeFifoFrame hint fop addr payload hw).2
  | readFifoFrame hint fop addr size => exact (Laws.EncodeSize.readFifoFrame hint fop addr size hw).2
  | _ => cases hp

/-- The FIFO-op byte uses its low three bits only (R83). -/
theorem wfFop_fop (s : State) : wfFop (fop s) = true := by
  unfold fop
  cases s.c.first && s.q.start <;> cases s.k.final && s.q.endf <;> cases s.k.resend && s.q.retryEn <;> rfl

theorem ChunkOk.wfChunk_size {s : State} (h : ChunkOk s) : wfChunk s.k.size = true := by
  simp only [wfChunk, h.size, Bool.and_eq_true, decide_eq_true_eq]
  exact ⟨chunkSize_pos _ h.left, chunkSize_le _⟩

theorem chunkPayload_length {s : State} (hb : Bounds s) : (chunkPayload s).length = s.k.size := by
  have := payloadAt_le s.q
  have := hb.txbuf
  have := hb.chunk
  simp only [chunkPayload, List.length_take, List.length_drop]
  omega

/-- The frame the engine sends is well formed, and a register command's is the one that stands in the send buffer (R193, R225). -/
theorem Exchanging.sendInstr_ok {s : State} {i : Instr} (h : Exchanging s) (hi : sendInstr s = some i) :
    i.wf = true ∧ (isFifo s.q.code = false → encode i = txFrame s) := by
  have chunk (hf : isFifo s.q.code = true) : ChunkOk s := (h.streamOk hf).chunk h.noCallback
  unfold sendInstr at hi
  split at hi
  · rename_i hc
    have hf : isFifo s.q.code = true := by rw [hc]; rfl
    obtain rfl := Option.some.inj hi
    refine ⟨?_, fun hn => by rw [hn] at hf; cases hf⟩
    simp [Instr.wf, wfFop_fop, chunkPayload_length h.bounds, (chunk hf).wfChunk_size]
  split at hi
  · rename_i hc
    have hf : isFifo s.q.code = true := by rw [hc]; rfl
    have hk : (BitVec.ofNat 8 s.k.size).toNat = s.k.size := by
      have := h.bounds.chunk
      rw [BitVec.toNat_ofNat]; omega
    obtain rfl := Option.some.inj hi
    refine ⟨?_, fun hn => by rw [hn] at hf; cases hf⟩
    simp [Instr.wf, wfFop_fop, hk, (chunk hf).wfChunk_size]
  · obtain ⟨hw, -, henc⟩ := decodeRequest_inv _ _ _ (instrOf_some _ _ hi)
    exact ⟨hw, fun _ => henc⟩

theorem Exchanging.inv_send {s : State} {i : Instr} (h : Exchanging s) (hi : sendInstr s = some i) :
    Inv (issueSend (loadFrame (encode i) s)) := by
  obtain ⟨hw, hframe⟩ := h.sendInstr_ok hi
  have hb := h.bounds.loadFrame (request_length_le (sendInstr_port s i hi) hw)
  refine (h.same { frame := fun hf => ?_ } hb).inv_issueSend
  rw [txFrame_loadFrame, hframe hf]

/-! ### Chunks -/

/-- The next chunk is all that is left, up to 240 bytes (R221). -/
theorem chunkSize_eq_min (r : Word) : chunkSize r = min r.toNat 240 := by
  unfold chunkSize floor4
  split <;> simp_all
  omega

/-- A chunk opened on a stream with bytes left, whatever stands in the send buffer (R222). -/
theorem Live.inv_openChunk {s : State} (h : Live s) (hq : RequestOk s.q) (hs : StreamAt s) (hleft : s.c.remaining ≠ 0)
    {buf : List Byte} (hbuf : buf.length = 249) {n : Nat} {x : Byte}
    (ha : (s.q.code = 0x04 ∧ n = 7 ∧ x = 0x84) ∨ (s.q.code = 0x08 ∧ n = chunkSize s.c.remaining + 8 ∧ x = 0x88)) :
    Inv (openChunk (chunkSize s.c.remaining) n x { s with txbuf := buf }) := by
  have hsize := chunkSize_le s.c.remaining
  have hn : n ≤ 248 := by rcases ha with ⟨-, rfl, -⟩ | ⟨-, rfl, -⟩ <;> omega
  have hchunk : ChunkOk (openChunk (chunkSize s.c.remaining) n x { s with txbuf := buf }) := ⟨hleft, rfl, rfl, ha⟩
  exact .of_data ⟨h.bounds.memory, hbuf, h.bounds.rxbuf, h.bounds.txlen, hn, hsize⟩ h.busy h.pending h.done (by simp) h.outstanding
    ⟨hq, .inr (hs.same.streamOk (fun he => by simp at he) fun _ => hchunk)⟩

theorem Live.inv_startChunk {s t : State} (h : Live s) (hq : RequestOk s.q) (hs : StreamAt s) (hleft : s.c.remaining ≠ 0)
    (ht : startChunk s = .next t) : Inv t := by
  rcases startChunk_next s t ht with ⟨hc, rfl⟩ | ⟨hc, rfl⟩
  · refine h.inv_openChunk hq hs hleft ?_ (.inl ⟨hc, rfl, rfl⟩)
    have := payloadAt_le s.q
    have := chunkSize_le s.c.remaining
    rw [overwrite_length, h.bounds.txbuf]
    rw [bufBytes_length, h.bounds.txbuf]
    omega
  · exact h.inv_openChunk hq hs hleft h.bounds.txbuf (.inr ⟨hs.code.resolve_left hc, rfl, rfl⟩)

theorem Between.inv_continueStream {s t : State} {abort : Bool} (h : Between s) (ht : continueStream abort s = .next t) : Inv t := by
  rcases continueStream_next abort s t ht with ⟨-, rfl⟩ | ⟨-, -, rfl⟩ | ⟨hp, -, ht⟩
  · exact h.inv_finish _
  · exact h.inv_finish _
  · exact h.inv_startChunk h.request h.stream (h.left hp) ht

/-- The chunk callback is raised between two chunks (R236, R237). -/
theorem Between.inv_callback {s : State} (h : Between s) : Inv { s with chunkPending := true, engine := .cbWait } where
  bounds := h.bounds.same
  busy := h.busy
  pending := rfl
  done := fun _ => h.done
  request := h.outstanding
  running := ⟨h.request, .inr (h.stream.same.streamOk (fun _ => h.left) fun he => absurd rfl he)⟩

/-- A callback that returns finds the stream between two chunks (R291). -/
theorem Inv.between {s : State} (h : Inv s) (he : s.engine = .cbWait) : Between { s with chunkPending := false } := by
  obtain ⟨hq, hx⟩ := (runningOk_iff_dataOk (by simp [he]) (by simp [he])).1 h.running
  have hs := hx.resolve_left fun hx => hx.noCallback he
  refine ⟨⟨h.bounds.same, ?_, rfl, h.done (by simp [he]), ?_⟩, hq, hs.streamAt.same, hs.callback he⟩
  · exact h.busy.trans (by simp [he])
  · exact h.request.trans (by simp [outstandingFor, he])

theorem Inv.after_callbackReturn {s t : State} {abort : Bool} (h : Inv s) (ht : callbackReturn abort s = .next t) : Inv t := by
  rcases callbackReturn_next abort s t ht with ⟨he, ht⟩ | ⟨-, rfl⟩
  · exact (h.between he).inv_continueStream ht
  · exact h

/-- A stream advanced by the bytes of a chunk, all of it when it writes (R235, R244). -/
theorem StreamAt.advance {s : State} (h : StreamAt s) (st : Word) {a : Nat} (hpos : 1 ≤ a) (hle : a ≤ s.c.remaining.toNat)
    (hw : s.q.code = 0x04 → a = chunkSize s.c.remaining) : StreamAt (advance st a s) := by
  have hsize := s.q.size.isLt
  have hcursor := h.cursor
  have hchunks := h.chunks
  have hoff : (s.c.offset + BitVec.ofNat 32 a).toNat = s.c.offset.toNat + a := toNat_add_ofNat _ _ (by omega)
  have hrem : (s.c.remaining - BitVec.ofNat 32 a).toNat = s.c.remaining.toNat - a := toNat_sub_ofNat _ _ hle
  have hcount : (s.chunks + 1).toNat = s.chunks.toNat + 1 := toNat_add_ofNat _ 1 (by omega)
  refine ⟨h.code, ?_, rfl, ?_, ?_, fun hc => ?_⟩
  · rw [advance_c, advance_q, hoff, hrem]; omega
  · rw [advance_c, advance_chunks, hoff, hcount]; omega
  · have hne : s.c.offset + BitVec.ofNat 32 a ≠ 0 := fun h0 => by rw [h0] at hoff; simp at hoff; omega
    exact (decide_eq_false hne).symm
  · obtain ⟨hfull, haligned⟩ := h.writeChunks hc
    have hleft : s.c.remaining ≠ 0 := fun h0 => by rw [h0] at hle; simp at hle; omega
    have halign := haligned hleft
    have ha := hw hc
    rw [chunkSize_eq_min] at ha
    rw [advance_c, advance_chunks, hcount, hoff, hfull]
    refine ⟨by omega, fun hne => ?_⟩
    have hne : (s.c.remaining - BitVec.ofNat 32 a).toNat ≠ 0 := fun h0 => hne (BitVec.eq_of_toNat_eq h0)
    omega

/-- The pending end of an advanced stream says that bytes are left, unless a status ends it (R236). -/
theorem advance_left {st : Word} {a : Nat} {s : State} (h : (advance st a s).e.pending = false) : (advance st a s).c.remaining ≠ 0 := by
  rw [advance_e, Bool.or_eq_false_iff, decide_eq_false_iff_not] at h
  exact h.1

theorem Exchanging.inv_chunkOk {s t : State} {st : Word} {a : Nat} (h : Exchanging s) (hx : StreamOk s) (hle : a ≤ s.k.size)
    (hw : s.q.code = 0x04 → a = s.k.size) (ht : chunkOk st a s = .next t) : Inv t := by
  rcases chunkOk_next st a s t ht with ⟨-, rfl⟩ | ⟨hns, m, hm, ht⟩
  · exact h.inv_finish 0
  have hchunk := hx.chunk h.noCallback
  have hmem : m.wf = true := by
    rcases hm with ⟨-, rfl⟩ | ⟨-, rfl⟩
    · exact memSetAll_wf _ _ _ h.bounds.memory
    · exact h.bounds.memory
  have hpos : 1 ≤ a := by
    rcases hx.code with hc | hc
    · rw [hw hc, hchunk.size]; exact chunkSize_pos _ hchunk.left
    · simp [readStops, hc] at hns; omega
  have hrem : a ≤ s.c.remaining.toNat := by
    have := chunkSize_le_remaining s.c.remaining
    rw [hchunk.size] at hle
    omega
  have hat : StreamAt (advance st a s) := hx.streamAt.advance st hpos hrem fun hc => (hw hc).trans hchunk.size
  have hb : Between (advance st a { s with bufmem := m }) :=
    ⟨h.toLive.same (h.bounds.same fun _ => hmem), h.data.1, hat.same, advance_left⟩
  rcases ht with ⟨-, rfl⟩ | ⟨-, ht⟩
  · exact hb.inv_callback
  · exact hb.inv_continueStream ht

/-! ### Answers -/

/-- An accepted acknowledgement; that of a read chunk counts no more bytes than the chunk (R173). -/
theorem Exchanging.inv_ackAccept {s t : State} {st : Word} (h : Exchanging s)
    (hcount : s.expack = 0x88 → (byteAt s.rxbuf 6).toNat ≤ s.k.size) (ht : ackAccept st s = .next t) : Inv t := by
  rcases ackAccept_next st s t ht with ⟨hc, ht⟩ | ⟨hc, ht⟩ | ⟨-, -, ht⟩
  · exact h.inv_chunkOk (h.streamOk (by rw [hc]; rfl)) le_rfl (fun _ => rfl) ht
  · have hx := h.streamOk (by rw [hc]; rfl)
    have hack : s.expack = 0x88 := by
      rcases (hx.chunk h.noCallback).ack with ⟨h4, -⟩ | ⟨-, -, hack⟩
      · rw [hc] at h4; cases h4
      · exact hack
    exact h.inv_chunkOk hx (hcount hack) (fun h4 => by rw [hc] at h4; cases h4) ht
  · rcases regAccept_next st s t ht with ⟨-, rfl⟩ | ⟨-, rfl⟩
    · refine Live.inv_finish ?_ st
      exact h.toLive.same (h.bounds.same (memSetAll_wf _ _ _))
    · exact Live.inv_finish (h.toLive.same h.bounds.same) st

theorem Bounds.takeResponse {s : State} (h : Bounds s) {r : Word} {d : List Byte} (hd : r.toInt = s.rxn → d.length = s.rxn) :
    Bounds (takeResponse r d s) where
  memory := h.memory
  txbuf := h.txbuf
  rxbuf := by
    rw [takeResponse_rxbuf]
    split
    · rename_i hr
      have := h.rxn
      rw [overwrite_length, h.rxbuf]
      rw [h.rxbuf, hd hr]; omega
    · exact h.rxbuf
  txlen := h.txlen
  rxn := h.rxn
  chunk := h.chunk

theorem Inv.after_recvResponse {s t : State} {r : Word} {d : List Byte} (h : Inv s) (ht : recvResponse r d s = .next t) : Inv t := by
  have taken (he : s.engine = .recvWait) (hd : r.toInt = s.rxn → d.length = s.rxn) : Exchanging (takeResponse r d s) :=
    h.exchanging (by simp [he]) {} (h.bounds.takeResponse hd) rfl
  rcases recvResponse_next r d s t ht with ⟨-, rfl⟩ | ⟨he, -, hd, st, hok, ht⟩ | ⟨he, hd, ls, rfl, -⟩
  · exact h
  · exact (taken he fun _ => hd).inv_ackAccept (decodeAck_ok _ _ _ hok).2.2 ht
  · exact ((taken he hd).same {} (taken he hd).bounds.same).inv_ackFailure

theorem Inv.after_sendResponse {s : State} (h : Inv s) (he : s.engine = .sendWait) (r : Word) : Inv (sendResponse r s) := by
  have hx : Exchanging { s with outstanding := none } := h.exchanging (by simp [he]) {} h.bounds.same rfl
  rcases sendResponse_cases r s with ⟨-, ht⟩ | ⟨-, ht⟩ <;> rw [ht]
  · exact hx.inv_at (.inr rfl)
  · exact hx.inv_sendFailure

theorem Inv.after_ctlResponse {s : State} (h : Inv s) (r : Word) : Inv (ctlResponse r s) :=
  .of_idle h.bounds.same rfl rfl rfl rfl

theorem Inv.after_response {s t : State} {r : Word} {d : List Byte} (h : Inv s) (ht : response r d s = .next t) : Inv t := by
  rcases response_next ht with ⟨he, rfl⟩ | ⟨-, ht⟩ | ⟨-, rfl⟩ | rfl
  · exact h.after_sendResponse he r
  · exact h.after_recvResponse ht
  · exact h.after_ctlResponse r
  · exact h

/-! ### GO -/

theorem Inv.live_acceptGo {s : State} (h : Inv s) (hb : s.busy = false) (code : Byte) (req : Request) : Live (acceptGo code req s) := by
  have he := h.engine_of_not_busy hb
  exact ⟨h.bounds.same, rfl, h.pending.trans (by simp [he]), rfl, h.request.trans (by simp [outstandingFor, he])⟩

/-- What checks 2 and 3 and the defaults leave true of the latched request (R281, R283). -/
theorem requestOk_latch (code : Byte) {req : Request} (hb : badBuffer req = false) : RequestOk (latch code req) := by
  simp only [badBuffer, Bool.or_eq_false_iff, Bool.and_eq_false_iff, decide_eq_false_iff_not, Nat.not_lt] at hb
  obtain ⟨hnull, hwrap⟩ := hb
  refine ⟨?_, fun hneg => ?_, hwrap, fun hsize hptr => ?_⟩
  · simp only [latch]
    split
    · decide
    · assumption
  · simp only [latch] at hneg ⊢
    split
    · decide
    · rename_i hne
      exact ⟨Nat.pos_of_ne_zero fun h0 => hne (BitVec.eq_of_toNat_eq h0), hneg⟩
  · have hpos : 0 < req.size := by
      have : req.size.toNat ≠ 0 := fun h0 => hsize (BitVec.eq_of_toNat_eq h0)
      rw [BitVec.lt_def]
      exact Nat.pos_of_ne_zero this
    exact hnull.elim (· hpos) (· hptr)

/-- A register command started on its frame (R190 to R192). -/
theorem Live.inv_startExchange {s : State} (h : Live s) {f : List Byte} (hf : f.length ≤ 249) {n : Nat} (hn : n ≤ 248) {x : Byte}
    (hq : RequestOk s.q) (hx : ExchangeOk (startExchange n x (loadFrame f s))) : Inv (startExchange n x (loadFrame f s)) := by
  have hb := h.bounds.loadFrame hf
  exact .of_data ⟨hb.memory, hb.txbuf, hb.rxbuf, hb.txlen, hn, hb.chunk⟩ h.busy h.pending h.done (by simp) h.outstanding ⟨hq, .inl hx⟩

theorem Dispatched.inv_next {code : Byte} {req : Request} {s t : State} (h : Dispatched code req (acceptGo code req s) t)
    (hl : Live (acceptGo code req s)) : Inv t := by
  have small (ho : oversized req = false) : req.size.toNat ≤ 240 := by simpa [oversized] using ho
  cases h with
  | refused ht => rw [ht]; exact hl.inv_complete _
  | writeRegister hc hb ho ht =>
    obtain ⟨bs, hbs, ht⟩ := andThen_eq_next ht
    obtain rfl := Host.Outcome.next.inj ht
    have hlen : bs.length = req.size.toNat := by rw [readBytes_next _ _ _ _ hbs, bufBytes_length]; rfl
    have hf := request_length_le (i := .write (hintByte (latch code req)) req.addr bs) rfl (by simpa [Instr.wf, hlen] using small ho)
    refine hl.inv_startExchange hf (by omega) (requestOk_latch code hb) ⟨by simp, small ho, ⟨rfl, rfl⟩, .inl ⟨hc, rfl, rfl, bs, hlen, ?_⟩⟩
    exact txFrame_loadFrame _ _
  | readRegister hc hb ho ht =>
    obtain rfl := Host.Outcome.next.inj ht
    have hsize := small ho
    have hf := request_length_le (i := .read (hintByte (latch code req)) req.addr (req.size.setWidth 8)) rfl
      (by simp [Instr.wf]; omega)
    refine hl.inv_startExchange hf (Nat.add_le_add_right hsize 7 |>.trans (by omega)) (requestOk_latch code hb)
      ⟨by simp, hsize, ⟨rfl, rfl⟩, .inr ⟨hc, rfl, rfl, ?_⟩⟩
    exact txFrame_loadFrame _ _
  | stream hc hb ht =>
    rcases startStream_next _ _ ht with ⟨-, rfl⟩ | ⟨hsize, ht⟩
    · exact hl.inv_finish 0
    · refine Live.inv_startChunk (hl.same hl.bounds.same) (requestOk_latch code hb) ⟨hc, by simp, rfl, by simp, rfl, fun _ => by simp⟩ hsize ht
  | setTimeout hc ht =>
    subst ht
    exact ⟨hl.bounds.same, rfl, hl.pending, fun _ => rfl, rfl, hc⟩

/-! ### Reset and the engine's turn -/

theorem inv_resetBlock {s : State} (h : s.bufmem.wf = true) : Inv (resetBlock s) :=
  .of_idle
    { memory := h
      txbuf := by simp [resetBlock]
      rxbuf := by simp [resetBlock]
      txlen := Nat.le_of_lt_succ (Nat.mod_lt _ (by decide))
      rxn := Nat.le_of_lt_succ (Nat.mod_lt _ (by decide))
      chunk := Nat.le_of_lt_succ (Nat.mod_lt _ (by decide)) } rfl rfl rfl rfl

/-- In SEND and RECV the engine has no request outstanding (R146). -/
theorem Inv.exchanging_turn {s : State} (h : Inv s) (he : s.engine = .send ∨ s.engine = .recv) : Exchanging s :=
  h.exchanging (by rcases he with he | he <;> simp [he]) {} h.bounds.same
    (h.request.trans (by rcases he with he | he <;> simp [outstandingFor, he]))

theorem Inv.after_engineTurn {s : State} (h : Inv s) : Inv (engineTurn s) := by
  rcases engineTurn_cases s with ⟨he, ht⟩ | ⟨he, ht⟩ | ht <;> rw [ht]
  · exact (h.exchanging_turn (.inl he)).inv_issueSend
  · exact (h.exchanging_turn (.inr he)).inv_issueRecv
  · exact h

theorem Inv.after_writeReg {s : State} (h : Inv s) (offset : Nat) (v : Word) : Inv (writeReg offset v s) := by
  obtain ⟨irqEn, cmd, req, hw, -⟩ := writeReg_eq offset v s
  rw [hw]
  exact h.quiet {}

end Sys2Proof.Machine

namespace Sys2Proof.Proofs

open Sys2Proof Sys2Proof.Machine Sys2Proof.Claims

/-! ## The statements about the state, the registers and the invariant (10_state.md) -/

/-- Settles O22, by the move the step takes: each agent's move is quiet, and each operation of the engine goes from the invariant
through a command with nothing outstanding back to the invariant. -/
theorem stepKeepsTheInvariant : Obligations.StepKeepsTheInvariant := by
  unfold Obligations.StepKeepsTheInvariant
  intro s t hinv h
  have hpop : Inv (popMove s) := hinv.quiet {}
  have quiet {u : State} (h : (.next u : Res State) = .next t) (hu : Quiet s u) : Inv t := by
    obtain rfl := Host.Outcome.next.inj h
    exact hinv.quiet hu
  have took := step_took s
  generalize step s = o at h took
  cases took with
  | control w i hm hd =>
    rcases execControl_next hd h with rfl | ⟨abort, hk⟩ | ⟨hb, -, hk⟩
    · exact hpop
    · exact hpop.after_callbackReturn hk
    · exact hk.inv_next (hpop.live_acceptGo hb _ _)
  | status w hm hd => exact quiet h { done := fun _ => rfl }
  | hostWrite width offset v hm ha =>
    obtain rfl := Host.Outcome.next.inj h
    exact hpop.after_writeReg offset v
  | send i hm he hi hp =>
    obtain ⟨-, rfl⟩ := sendFrame_next _ _ _ h
    exact (hpop.exchanging_turn (.inl he)).inv_send hi
  | engine hm hi =>
    obtain rfl := Host.Outcome.next.inj h
    exact hpop.after_engineTurn
  | hostRead width offset hm ha => exact quiet h {}
  | response r d hm => exact hpop.after_response h
  | lateResponse r d hm => exact quiet h {}
  | time ms hm => exact quiet h {}
  | bufStore a v hm =>
    obtain ⟨-, -, rfl⟩ := hostStore_next a v _ _ h
    exact hinv.quiet { memory := memWfFrom_memSet _ 0 a.toNat v a.isLt (Nat.zero_le _) }
  | bufLoad a hm =>
    obtain ⟨-, v, n, rfl⟩ := hostLoad_next a _ _ h
    exact hinv.quiet {}
  | rst hm =>
    obtain rfl := Host.Outcome.next.inj h
    exact inv_resetBlock hinv.bounds.memory
  | notAdmitted => cases h

/-- Settles O4: the case split of `controlOf` and `statusOf` on bits 0 to 2 of the word. -/
theorem actionOfAControlOrStatusWord : Obligations.ActionOfAControlOrStatusWord := by
  unfold Obligations.ActionOfAControlOrStatusWord
  intro w
  rw [decode_control, decode_status, controlOf, statusOf]
  refine ⟨fun h0 => ?_, fun h0 h1 h2 => ?_, fun h0 h1 h2 => ?_, fun h0 h1 => ?_, fun h1 => ?_, fun h1 => ?_⟩
  · rw [if_pos h0]
  · simp only [h0, h1, h2, Bool.false_eq_true, if_true, if_false]
  · simp only [h0, h1, h2, Bool.false_eq_true, if_true, if_false]
  · simp only [h0, h1, Bool.false_eq_true, if_false]
  · rw [if_pos h1]
  · simp only [h1, Bool.false_eq_true, if_false]

/-- Settles O13: the read answers `readReg`, whose word at each offset is the register's; STATUS by its bits and its shifts. -/
theorem hostReadReturnsTheRegister : Obligations.HostReadReturnsTheRegister := by
  unfold Obligations.HostReadReturnsTheRegister
  intro s offset hm h4 h64
  refine ⟨readReg offset s, ?_, ?_⟩
  · rw [step_hostRead hm, if_pos ((admitted_iff 32 offset).2 ⟨rfl, h4, h64⟩)]
  have status : offset = 0x20 → readReg offset s = statusWord s := by rintro rfl; rfl
  refine ⟨?_, ?_, ?_, ?_, ?_, ?_, ?_, ?_, fun ho => ?_, ?_, ?_, ?_, ?_, ?_⟩
  case refine_9 =>
    obtain ⟨hbusy, hdone, hpending, h3⟩ := statusWord_bits s
    rw [status ho, statusWord_shift]
    refine ⟨hbusy, hdone, hpending, h3, statusWord_high s, ?_⟩
    cases s.engine <;> rfl
  all_goals rintro rfl; rfl

/-- Settles O14: the two offsets are admitted, read as constants and are written by nothing. -/
theorem infoIsConstantAndReservedReadsZero : Obligations.InfoIsConstantAndReservedReadsZero := by
  unfold Obligations.InfoIsConstantAndReservedReadsZero
  refine ⟨fun s hm => ?_, fun s hm => ?_, fun s v hm => ?_⟩
  · rw [step_hostRead hm]; rfl
  · rw [step_hostRead hm]; rfl
  · rcases hm with hm | hm
    · rw [step_hostWrite_register hm (by decide), writeReg_readOnly _ _ (by decide)]
    · rw [step_hostWrite_register hm (by decide), writeReg_readOnly _ _ (by decide)]

/-- Settles O15: a write at one of these offsets runs `writeReg`, whose branch is chosen by the offset and BUSY. -/
theorem hostWriteSetsTheRegister : Obligations.HostWriteSetsTheRegister := by
  unfold Obligations.HostWriteSetsTheRegister
  intro s offset v hm
  have request : ∀ o ∈ [0x00, 0x04, 0x08, 0x0C, 0x10, 0x14, 0x18],
      (admitted 32 o = true ∧ o ≠ controlOffset ∧ o ≠ statusOffset) ∧ o ≠ 0x2C := by decide
  have readOnly : ∀ o ∈ [0x24, 0x28, 0x30, 0x34],
      (admitted 32 o = true ∧ o ≠ controlOffset ∧ o ≠ statusOffset) ∧ o ∈ [0x24, 0x28, 0x30, 0x34, 0x38, 0x3C] := by decide
  refine ⟨?_, fun hb => ?_, fun hb ho => ?_, fun ho => ?_⟩
  · rintro rfl
    exact step_hostWrite_register hm (by decide)
  · refine ⟨?_, ?_, ?_, ?_, ?_, ?_, ?_⟩ <;>
    · rintro rfl
      rw [step_hostWrite_register hm (by decide)]
      simp [writeReg, hb]
  · obtain ⟨hreg, hirq⟩ := request offset ho
    rw [step_hostWrite_register hm hreg, writeReg_kept_by_busy offset v (popMove s) hb hirq]
  · obtain ⟨hreg, hro⟩ := readOnly offset ho
    rw [step_hostWrite_register hm hreg, writeReg_readOnly v _ hro]

/-- Settles O17: such an access is not to an action register of 32 bits and is not admitted. -/
theorem hostAccessOutsideTheRulesRefused : Obligations.HostAccessOutsideTheRulesRefused := by
  unfold Obligations.HostAccessOutsideTheRulesRefused
  intro s width offset v hout
  have hna : ¬ admitted width offset = true := by rw [admitted_iff]; omega
  have not_to (o : Nat) (ho : admitted 32 o = true) : ¬ (width = 32 ∧ offset = o) := by
    rintro ⟨rfl, rfl⟩; exact hna ho
  refine ⟨fun hm => ?_, fun hm => ?_⟩
  · rw [step_hostWrite hm (not_to _ (by decide)) (not_to _ (by decide)), if_neg hna]
  · rw [step_hostRead hm, if_neg hna]

/-- Settles O18: the two terms of `irq` read off STATUS and IRQ_EN. -/
theorem irqIsALevelOfStatusAndEnable : Obligations.IrqIsALevelOfStatusAndEnable := by
  unfold Obligations.IrqIsALevelOfStatusAndEnable
  refine ⟨fun s => ?_, rfl⟩
  obtain ⟨-, hdone, hpending, -⟩ := statusWord_bits s
  change _ ↔ ((statusWord s).getLsbD 1 = true ∧ (s.irqEn.setWidth 32).getLsbD 0 = true) ∨
    ((statusWord s).getLsbD 2 = true ∧ (s.irqEn.setWidth 32).getLsbD 1 = true)
  rw [hdone, hpending]
  simp [irq]

/-- The latched request is the one the spec spells out (R281). -/
theorem latch_eq_latched (code : Byte) (req : Request) : latch code req = latched code req := by
  simp [latch, latched, BitVec.msb_eq_toInt]

/-- Settles O53: the engine keeps RESULT except in `finish`, a GO writes it only where it refuses, and a register write never does. -/
theorem resultChangesOnlyAtAFinish : Obligations.ResultChangesOnlyAtAFinish := by
  unfold Obligations.ResultChangesOnlyAtAFinish
  intro s t h hne
  have ended {u : State} (hc : Continues u t) (hu : u.result = s.result) :
      t.engine = .idle ∧ t.busy = false ∧ t.done = true ∧ t.chunkPending = false := by
    rcases hc with hc | ⟨st, v, -, rfl⟩
    · obtain ⟨-, -, -, hr⟩ := (held_eq_iff u t).1 hc
      exact absurd (hr.trans hu) hne
    · exact ⟨rfl, rfl, rfl, rfl⟩
  cases step_effect h with
  | continues hc => exact .inl (ended hc rfl)
  | go hb w hm hw hd =>
    rcases hd.continues with rfl | hc
    · exact .inl ⟨rfl, rfl, rfl, rfl⟩
    · exact .inl (ended hc rfl)
  | hostWrite offset v ht => exact absurd (by rw [ht, writeReg_result, popMove_result]) hne
  | rst hm ht => exact .inr ⟨hm, by rw [ht]; rfl⟩

/-- Settles O54: the engine keeps the latched request, so only an accepted GO and a reset are left. -/
theorem latchedRequestChangesOnlyAtGo : Obligations.LatchedRequestChangesOnlyAtGo := by
  unfold Obligations.LatchedRequestChangesOnlyAtGo
  intro s t h hne
  cases step_effect h with
  | continues hc => exact absurd hc.q hne
  | go hb w hm hw hd =>
    have hq : t.q = latch s.cmd (requestOf s) := by
      rcases hd.continues with rfl | hc
      · rfl
      · exact hc.q
    exact .inr ⟨hb, ⟨w, hm, hw⟩, hq.trans (latch_eq_latched _ _)⟩
  | hostWrite offset v ht => exact absurd (by rw [ht, writeReg_q, popMove_q]) hne
  | rst hm ht => exact .inl hm

/-- Settles O16: while BUSY is set no GO is accepted and a register write reaches IRQ_EN only, so what is left is the engine,
which holds the request registers up to the `DATA_SIZE` writeback of `finish`. -/
theorem requestRegistersHeldWhileBusy : Obligations.RequestRegistersHeldWhileBusy := by
  unfold Obligations.RequestRegistersHeldWhileBusy
  intro s t hbusy hrst h
  have hc : Continues s t := by
    cases step_effect h with
    | continues hc => exact hc
    | go hb => simp [hbusy] at hb
    | hostWrite offset v ht => exact .same (ht ▸ writeReg_held_of_busy offset v (s := popMove s) hbusy)
    | rst hm => exact absurd hm hrst
  rcases hc with hc | ⟨st, u, hu, rfl⟩
  · obtain ⟨hcmd, ⟨haddr, hptr, hsize, htimeout, hretries, hflags⟩, -, -⟩ := (held_eq_iff s t).1 hc
    exact ⟨hcmd, haddr, hptr, htimeout, hretries, hflags, .inl hsize⟩
  · obtain ⟨hcmd, ⟨haddr, hptr, hsize, htimeout, hretries, hflags⟩, hq, -⟩ := (held_eq_iff s u).1 hu
    refine ⟨hcmd, haddr, hptr, htimeout, hretries, hflags, ?_⟩
    rw [finish_dataSize, finish_bytesDone, hq, hsize]
    split
    · exact .inr ⟨‹_›, rfl, rfl, rfl⟩
    · exact .inl rfl

end Sys2Proof.Proofs

namespace Sys2Proof.Machine

open Claims

/-! ## What the block does with another buffer memory -/

/-- `s` with `m` for its buffer memory. -/
def withMemory (m : Memory) (s : State) : State := { s with bufmem := m }

/-- An answer in which the next state has `m` for its buffer memory; a stop is kept. -/
def answerWith (m : Memory) (o : Res State) : Res State := andThen o fun t => .next (withMemory m t)

/-- `m` reads like `m0` on the `size` bytes from `ptr` on. -/
def AgreeOn (m m0 : Memory) (ptr size : Word) : Prop :=
  ∀ a : Nat, ptr.toNat ≤ a → a < ptr.toNat + size.toNat → memGet m a = memGet m0 a

/-- An operation whose value is carried over to `m` goes on with `m`. -/
theorem andThen_answerWith {m : Memory} {o : Res State} {f : State → Res State}
    (h : ∀ u, o = .next u → f (withMemory m u) = answerWith m (f u)) : andThen (answerWith m o) f = answerWith m (andThen o f) := by
  cases o with
  | next u => exact h u rfl
  | fault r => rfl
  | refused r => rfl

/-! ### Reads and writes -/

theorem bufBytes_congr {m m0 : Memory} {a : Word} {n : Nat}
    (h : ∀ j, j < n → memGet m (a + BitVec.ofNat 32 j).toNat = memGet m0 (a + BitVec.ofNat 32 j).toNat) :
    bufBytes m a n = bufBytes m0 a n := by
  induction n generalizing a with
  | zero => rfl
  | succ n ih =>
    have h0 := h 0 (Nat.succ_pos n)
    rw [BitVec.add_zero] at h0
    rw [bufBytes, bufBytes, h0, ih fun j hj => by rw [← succ_offset]; exact h (j + 1) (by omega)]

/-- Memories that agree on a buffer hold the same bytes in any range inside it. -/
theorem AgreeOn.bufBytes_eq {m m0 : Memory} {ptr size : Word} (h : AgreeOn m m0 ptr size)
    (hin : ptr.toNat + size.toNat ≤ 4294967296) (o : Word) {n : Nat} (hn : o.toNat + n ≤ size.toNat) :
    bufBytes m (ptr + o) n = bufBytes m0 (ptr + o) n := by
  refine bufBytes_congr fun j hj => ?_
  have ha : (ptr + o + BitVec.ofNat 32 j).toNat = ptr.toNat + o.toNat + j := by
    rw [BitVec.toNat_add, BitVec.toNat_add, BitVec.toNat_ofNat]; omega
  exact h _ (by omega) (by omega)

theorem readBytes_withMemory {m : Memory} {s : State} {a : Word} {n : Nat} (h : bufBytes m a n = bufBytes s.bufmem a n) :
    readBytes (withMemory m s) a n = readBytes s a n := by
  induction n generalizing a with
  | zero => rfl
  | succ n ih =>
    obtain ⟨hv, hvs⟩ := List.cons.inj h
    have hread : memRead (withMemory m s) a = memRead s a := by
      change (if isBacked s a then Host.Outcome.next (memGet m a.toNat) else _) = _
      rw [hv]; rfl
    rw [readBytes, readBytes, hread, ih hvs]

/-- A range write sets the same bytes in every memory (R64). -/
theorem writeBytes_withMemory (m : Memory) (a : Word) (bs : List Byte) (s : State) :
    writeBytes a bs (withMemory m s) = answerWith (memSetAll m a bs) (writeBytes a bs s) := by
  induction bs generalizing m a s with
  | nil => rfl
  | cons v vs ih =>
    by_cases hb : isBacked s a = true
    · have hw : memWrite a v s = .next (withMemory (memSet s.bufmem a.toNat v) s) := if_pos hb
      have hw' : memWrite a v (withMemory m s) = .next (withMemory (memSet m a.toNat v) s) := if_pos hb
      rw [writeBytes, writeBytes, hw, hw', andThen_next, andThen_next, ih, ih]
      cases writeBytes (a + 1) vs s <;> rfl
    · have hw : memWrite a v s = .fault (.unbackedByte a) := if_neg hb
      have hw' : memWrite a v (withMemory m s) = .fault (.unbackedByte a) := if_neg hb
      rw [writeBytes, writeBytes, hw, hw']; rfl

theorem writeIf_withMemory (c : Prop) [Decidable c] (m : Memory) (a : Word) (bs : List Byte) (s : State) :
    (if c then writeBytes a bs (withMemory m s) else .next (withMemory m s)) =
      answerWith (memSetAll m a (if c then bs else [])) (if c then writeBytes a bs s else .next s) := by
  split
  · exact writeBytes_withMemory m a bs s
  · rfl

/-! ### The operations that leave buffer memory alone -/

theorem sendFailure_withMemory (m : Memory) (s : State) : sendFailure (withMemory m s) = withMemory m (sendFailure s) := by
  unfold sendFailure fifoSendFailure regSendFailure retryOrFinish
  simp only [apply_ite (withMemory m)]
  rfl

theorem ackFailure_withMemory (m : Memory) (s : State) : ackFailure (withMemory m s) = withMemory m (ackFailure s) := by
  unfold ackFailure fifoAckFailure regAckFailure retryOrFinish
  simp only [apply_ite (withMemory m)]
  rfl

theorem sendResponse_withMemory (m : Memory) (r : Word) (s : State) :
    sendResponse r (withMemory m s) = withMemory m (sendResponse r s) := by
  rw [sendResponse, sendResponse, apply_ite (withMemory m), ← sendFailure_withMemory]
  rfl

theorem ctlResponse_withMemory (m : Memory) (r : Word) (s : State) : ctlResponse r (withMemory m s) = withMemory m (ctlResponse r s) :=
  rfl

theorem engineTurn_withMemory (m : Memory) (s : State) : engineTurn (withMemory m s) = withMemory m (engineTurn s) := by
  have he : (withMemory m s).engine = s.engine := rfl
  unfold engineTurn
  rw [he]
  cases s.engine <;> rfl

theorem writeReg_withMemory (m : Memory) (offset : Nat) (v : Word) (s : State) :
    writeReg offset v (withMemory m s) = withMemory m (writeReg offset v s) := by
  unfold writeReg
  simp only [apply_ite (withMemory m)]
  rfl

theorem sendFrame_withMemory (m : Memory) (f : List Byte) (s : State) :
    sendFrame f (withMemory m s) = answerWith m (sendFrame f s) := by
  rw [sendFrame, sendFrame, apply_ite (answerWith m)]
  rfl

/-! ### The chunks of a stream -/

/-- `m` holds the bytes that the next chunk of a `WRITE_FIFO` reads (R222). -/
def ChunkAgrees (m : Memory) (s : State) : Prop :=
  s.q.code = 0x04 →
    bufBytes m (chunkAddr s) (chunkSize s.c.remaining) = bufBytes s.bufmem (chunkAddr s) (chunkSize s.c.remaining)

/-- Opening a chunk depends on no byte but those the chunk reads (R222). -/
theorem startChunk_withMemory {m : Memory} {s : State} (h : ChunkAgrees m s) :
    startChunk (withMemory m s) = answerWith m (startChunk s) := by
  by_cases hc : s.q.code = 0x04
  · have hread : readBytes (withMemory m s) (chunkAddr s) (chunkSize s.c.remaining) = _ := readBytes_withMemory (h hc)
    change (if s.q.code = 0x04 then andThen (readBytes (withMemory m s) (chunkAddr s) (chunkSize s.c.remaining)) _ else _) = _
    rw [if_pos hc, hread, startChunk, if_pos hc]
    cases readBytes s (chunkAddr s) (chunkSize s.c.remaining) <;> rfl
  · rw [startChunk, startChunk, if_neg hc]
    exact if_neg hc

theorem startStream_withMemory {m : Memory} {s : State}
    (h : ChunkAgrees m { s with c := { remaining := s.q.size, offset := 0, first := true } }) :
    startStream (withMemory m s) = answerWith m (startStream s) := by
  rw [startStream, startStream, apply_ite (answerWith m), ← startChunk_withMemory h]
  rfl

theorem continueStream_withMemory {m : Memory} {s : State} (abort : Bool) (h : ChunkAgrees m s) :
    continueStream abort (withMemory m s) = answerWith m (continueStream abort s) := by
  rw [continueStream, continueStream, apply_ite (answerWith m), apply_ite (answerWith m), ← startChunk_withMemory h]
  rfl

theorem callbackReturn_withMemory {m : Memory} {s : State} (abort : Bool) (h : s.engine = .cbWait → ChunkAgrees m s) :
    callbackReturn abort (withMemory m s) = answerWith m (callbackReturn abort s) := by
  by_cases he : s.engine = .cbWait
  · rw [callbackReturn, callbackReturn, if_pos he]
    exact (if_pos he).trans (continueStream_withMemory (s := { s with chunkPending := false }) abort (h he))
  · rw [callbackReturn, callbackReturn, if_neg he]
    exact if_neg he

/-- A stream inside its request reads its chunk in the buffer of the request (R63). -/
theorem StreamAt.chunkAgrees {m : Memory} {s : State} (h : StreamAt s) (hq : RequestOk s.q)
    (hm : AgreeOn m s.bufmem s.q.ptr s.q.size) : ChunkAgrees m s := fun _ => by
  have := h.cursor
  have := chunkSize_le_remaining s.c.remaining
  exact hm.bufBytes_eq hq.inside s.c.offset (by omega)

/-- The bytes that an accepted chunk puts into buffer memory (R231 to R234). -/
def chunkBytes (st : Word) (a : Nat) (s : State) : List Byte :=
  if readStops st a s = false ∧ s.q.code = 0x08 then (s.rxbuf.drop 7).take a else []

/-- The end of a chunk, after its bytes are in memory: the callback is raised, or the stream goes on (R235 to R239). -/
def closeChunk (st : Word) (a : Nat) (s : State) : Res State :=
  if s.q.cbEn then .next { advance st a s with chunkPending := true, engine := .cbWait } else continueStream false (advance st a s)

theorem chunkOk_stops {st : Word} {a : Nat} {s : State} (h : readStops st a s = true) : chunkOk st a s = .next (finish 0 s) :=
  if_pos h

theorem chunkOk_goesOn {st : Word} {a : Nat} {s : State} (h : readStops st a s = false) :
    chunkOk st a s =
      andThen (if s.q.code = 0x08 then writeBytes (chunkAddr s) ((s.rxbuf.drop 7).take a) s else .next s) (closeChunk st a) :=
  if_neg (by simp [h])

theorem closeChunk_withMemory {m : Memory} {s : State} {st : Word} {a : Nat} (h : ChunkAgrees m (advance st a s)) :
    closeChunk st a (withMemory m s) = answerWith m (closeChunk st a s) := by
  rw [closeChunk, closeChunk, apply_ite (answerWith m), ← continueStream_withMemory false h]
  rfl

/-- An accepted chunk writes the same bytes in every memory, and then reads the next chunk at most (R231). -/
theorem chunkOk_withMemory {m : Memory} {s : State} {st : Word} {a : Nat} (h : ChunkAgrees m (advance st a s)) :
    chunkOk st a (withMemory m s) = answerWith (memSetAll m (chunkAddr s) (chunkBytes st a s)) (chunkOk st a s) := by
  cases hstop : readStops st a s with
  | true =>
    rw [chunkOk_stops hstop, chunkOk_stops (s := withMemory m s) hstop, chunkBytes, if_neg (by simp [hstop])]
    rfl
  | false =>
    have hbytes : chunkBytes st a s = if s.q.code = 0x08 then (s.rxbuf.drop 7).take a else [] := by simp [chunkBytes, hstop]
    rw [chunkOk_goesOn hstop, chunkOk_goesOn (s := withMemory m s) hstop, hbytes]
    refine (congrArg (andThen · _) (writeIf_withMemory (s.q.code = 0x08) m (chunkAddr s) ((s.rxbuf.drop 7).take a) s)).trans
      (andThen_answerWith fun u hu => closeChunk_withMemory ?_)
    rcases writeIf_next _ _ _ _ _ hu with ⟨h8, rfl⟩ | ⟨h8, rfl⟩
    · exact fun h4 => absurd (h8.symm.trans h4) (by decide)
    · rw [if_neg h8]
      exact h

/-! ### Answers to a receive -/

/-- The bytes that an accepted acknowledgement of a register command puts into buffer memory (R197). -/
def registerBytes (s : State) : List Byte := if s.q.code = 0x02 then (s.rxbuf.drop 6).take s.q.size.toNat else []

theorem regAccept_withMemory (m : Memory) (st : Word) (s : State) :
    regAccept st (withMemory m s) = answerWith (memSetAll m s.q.ptr (registerBytes s)) (regAccept st s) :=
  (congrArg (andThen · _) (writeIf_withMemory _ _ _ _ _)).trans (andThen_answerWith fun _ _ => rfl)

/-- The bytes `bs` at `a` lie in the buffer of a read command (R61, R64, R65). -/
structure InReadBuffer (q : Latched) (a : Word) (bs : List Byte) : Prop where
  code : q.code = 0x02 ∨ q.code = 0x08
  lower : q.ptr.toNat ≤ a.toNat
  upper : a.toNat + bs.length ≤ q.ptr.toNat + q.size.toNat
  inside : q.ptr.toNat + q.size.toNat ≤ 4294967296

theorem registerBytes_inReadBuffer {s : State} (hq : RequestOk s.q) (h : registerBytes s ≠ []) :
    InReadBuffer s.q s.q.ptr (registerBytes s) := by
  unfold registerBytes at h ⊢
  split at h
  · rename_i hc
    rw [if_pos hc]
    exact ⟨.inl hc, le_rfl, Nat.add_le_add_left (List.length_take_le _ _) _, hq.inside⟩
  · exact absurd rfl h

theorem chunkBytes_inReadBuffer {s : State} {st : Word} {a : Nat} (hs : StreamAt s) (hq : RequestOk s.q) (ha : a ≤ s.c.remaining.toNat)
    (h : chunkBytes st a s ≠ []) : InReadBuffer s.q (chunkAddr s) (chunkBytes st a s) := by
  unfold chunkBytes at h ⊢
  split at h
  · rename_i hc
    rw [if_pos hc]
    have hlen : ((s.rxbuf.drop 7).take a).length ≤ a := List.length_take_le _ _
    have hpos := List.length_pos_of_ne_nil h
    have hcursor := hs.cursor
    have hinside := hq.inside
    have haddr : (chunkAddr s).toNat = s.q.ptr.toNat + s.c.offset.toNat := by
      rw [chunkAddr, BitVec.toNat_add]; omega
    exact ⟨.inr hc.2, by omega, by omega, hinside⟩
  · exact absurd rfl h

/-- `f` from `s` depends on no byte outside the `size` bytes from `ptr` on, and the bytes it writes, if any, lie in the buffer of a
read command and are written only where `w` holds (R63 to R65). -/
def Confined (ptr size : Word) (w : Prop) (f : State → Res State) (s : State) : Prop :=
  ∃ a bs, (bs ≠ [] → w ∧ InReadBuffer s.q a bs) ∧
    ∀ m, AgreeOn m s.bufmem ptr size → f (withMemory m s) = answerWith (memSetAll m a bs) (f s)

/-- An operation that writes nothing. -/
theorem Confined.of_keeps {ptr size : Word} {w : Prop} {f : State → Res State} {s : State}
    (h : ∀ m, AgreeOn m s.bufmem ptr size → f (withMemory m s) = answerWith m (f s)) : Confined ptr size w f s :=
  ⟨0, [], fun hne => absurd rfl hne, h⟩

/-- An operation that answers every state, and to which buffer memory means nothing. -/
theorem Confined.of_next {ptr size : Word} {w : Prop} {g : State → State} {s : State}
    (h : ∀ m, g (withMemory m s) = withMemory m (g s)) : Confined ptr size w (fun u => .next (g u)) s :=
  .of_keeps fun m _ => congrArg Host.Outcome.next (h m)

/-- An operation that runs another one from a state with the same command and the same memory. -/
theorem Confined.of_eq {ptr size : Word} {w : Prop} {f g : State → Res State} {s u : State} (h : Confined ptr size w g u)
    (hfg : ∀ m, f (withMemory m s) = g (withMemory m u)) (hq : u.q = s.q := by rfl) (hm : u.bufmem = s.bufmem := by rfl) :
    Confined ptr size w f s := by
  obtain ⟨a, bs, hin, hg⟩ := h
  have hs : f s = g u := (hfg s.bufmem).trans (by rw [← hm]; rfl)
  refine ⟨a, bs, hq ▸ hin, fun m hagree => ?_⟩
  rw [hfg, hs]
  exact hg m (hm ▸ hagree)

theorem Confined.imp {ptr size : Word} {w w' : Prop} {f : State → Res State} {s : State} (h : Confined ptr size w f s) (hw : w → w') :
    Confined ptr size w' f s := by
  obtain ⟨a, bs, hin, hm⟩ := h
  exact ⟨a, bs, fun hne => ⟨hw (hin hne).1, (hin hne).2⟩, hm⟩

theorem ackAccept_writeFifo {s : State} (h : s.q.code = 0x04) (st : Word) : ackAccept st s = chunkOk st s.k.size s := if_pos h

theorem ackAccept_readFifo {s : State} (h : s.q.code = 0x08) (st : Word) :
    ackAccept st s = chunkOk st (byteAt s.rxbuf 6).toNat s := by
  rw [ackAccept, if_neg (by rw [h]; decide), if_pos h]

theorem ackAccept_register {s : State} (h4 : s.q.code ≠ 0x04) (h8 : s.q.code ≠ 0x08) (st : Word) : ackAccept st s = regAccept st s := by
  rw [ackAccept, if_neg h4, if_neg h8]

theorem ackAccept_readRegister {s : State} (h : s.q.code = 0x02) (st : Word) : ackAccept st s = regAccept st s :=
  ackAccept_register (by rw [h]; decide) (by rw [h]; decide) st

/-- An accepted chunk reads and writes inside the request: the next chunk of a write, the received bytes of a read (R63, R64). -/
theorem Exchanging.chunkOk_confined {s : State} {st : Word} {a : Nat} {w : Prop} (h : Exchanging s) (hx : StreamOk s)
    (hle : a ≤ s.k.size) (hfull : s.q.code = 0x04 → a = s.k.size) (hw : w) :
    Confined s.q.ptr s.q.size w (chunkOk st a) s := by
  have hchunk := hx.chunk h.noCallback
  have hrem : a ≤ s.c.remaining.toNat := (hle.trans_eq hchunk.size).trans (chunkSize_le_remaining _)
  refine ⟨_, _, fun hne => ⟨hw, chunkBytes_inReadBuffer hx.streamAt h.data.1 hrem hne⟩, fun m hm => chunkOk_withMemory fun hc => ?_⟩
  have ha : a = chunkSize s.c.remaining := (hfull hc).trans hchunk.size
  have hat := hx.streamAt.advance st (ha ▸ chunkSize_pos _ hchunk.left) hrem fun _ => ha
  exact hat.chunkAgrees h.data.1 hm hc

/-- An accepted acknowledgement touches the running command's buffer only (R63 to R65). -/
theorem Exchanging.ackAccept_confined {s : State} {w : Prop} (h : Exchanging s) (st : Word)
    (hcount : s.expack = 0x88 → (byteAt s.rxbuf 6).toNat ≤ s.k.size) (hw : w) :
    Confined s.q.ptr s.q.size w (ackAccept st) s := by
  by_cases h4 : s.q.code = 0x04
  · have hx := h.streamOk (by rw [h4]; rfl)
    exact (h.chunkOk_confined hx le_rfl (fun _ => rfl) hw).of_eq fun m => ackAccept_writeFifo (s := withMemory m s) h4 st
  by_cases h8 : s.q.code = 0x08
  · have hx := h.streamOk (by rw [h8]; rfl)
    have hack : s.expack = 0x88 := by
      rcases (hx.chunk h.noCallback).ack with ⟨hc, -⟩ | ⟨-, -, hack⟩
      · exact absurd hc h4
      · exact hack
    exact (h.chunkOk_confined hx (hcount hack) (fun hc => absurd hc h4) hw).of_eq fun m =>
      ackAccept_readFifo (s := withMemory m s) h8 st
  · have hreg : Confined s.q.ptr s.q.size w (regAccept st) s :=
      ⟨_, _, fun hne => ⟨hw, registerBytes_inReadBuffer h.data.1 hne⟩, fun m _ => regAccept_withMemory m st s⟩
    exact hreg.of_eq fun m => ackAccept_register (s := withMemory m s) h4 h8 st

/-- The answer to a receive writes only where it is accepted (R196, R228). -/
theorem Inv.recvResponse_confined {s : State} (h : Inv s) (r : Word) (d : List Byte) :
    Confined s.q.ptr s.q.size (s.engine = .recvWait ∧ byteAt (overwrite s.rxbuf 0 d) 1 = s.expack) (recvResponse r d) s := by
  by_cases he : s.engine = .recvWait
  case neg =>
    refine .of_keeps fun m _ => ?_
    rw [recvResponse, recvResponse, if_neg he]
    exact if_neg he
  by_cases hshort : r.toInt = s.rxn ∧ d.length ≠ s.rxn
  case pos =>
    refine .of_keeps fun m _ => ?_
    rw [recvResponse, recvResponse, if_pos he, if_pos hshort]
    exact (if_pos he).trans (if_pos hshort)
  have hrun : ∀ m, recvResponse r d (withMemory m s) = onAck (decodeAck r (takeResponse r d s)) (withMemory m (takeResponse r d s)) :=
    fun m => (if_pos he).trans (if_neg hshort)
  refine Confined.of_eq (g := onAck (decodeAck r (takeResponse r d s))) (u := takeResponse r d s) ?_ hrun
  cases ho : decodeAck r (takeResponse r d s) with
  | tfail => exact .of_next (g := ackFailure) fun m => ackFailure_withMemory m _
  | ffail => exact .of_next (g := ackFailure) fun m => ackFailure_withMemory m _
  | devErr st =>
    exact .of_next (g := fun u => ackFailure { u with ls := { valid := true, value := st } }) fun m =>
      ackFailure_withMemory m { takeResponse r d s with ls := { valid := true, value := st } }
  | ok st =>
    obtain ⟨hr, hack, hcount⟩ := decodeAck_ok _ _ _ ho
    have hlen : d.length = s.rxn := not_not.1 fun hd => hshort ⟨hr, hd⟩
    have hx : Exchanging (takeResponse r d s) := h.exchanging (by simp [he]) {} (h.bounds.takeResponse fun _ => hlen) rfl
    have hbuf : (takeResponse r d s).rxbuf = overwrite s.rxbuf 0 d := if_pos hr
    exact hx.ackAccept_confined st hcount ⟨he, hbuf ▸ hack⟩

theorem Inv.response_confined {s : State} (h : Inv s) (r : Word) (d : List Byte) :
    Confined s.q.ptr s.q.size (s.engine = .recvWait) (response r d) s := by
  have hself (m : Memory) : (withMemory m s).engine = s.engine := rfl
  cases he : s.engine with
  | recvWait =>
    exact ((h.recvResponse_confined r d).imp fun _ => rfl).of_eq fun m => by rw [response, hself, he]
  | sendWait =>
    exact (Confined.of_next (g := sendResponse r) fun m => sendResponse_withMemory m r s).of_eq fun m => by rw [response, hself, he]
  | ctlWait =>
    exact (Confined.of_next (g := ctlResponse r) fun m => ctlResponse_withMemory m r s).of_eq fun m => by rw [response, hself, he]
  | _ => exact (Confined.of_next (g := id) fun m => rfl).of_eq fun m => by rw [response, hself, he]; rfl

/-! ### Commands -/

theorem runCommand_withMemory {m : Memory} {code : Byte} {req : Request} {bad : Bool} {start : State → Res State} {s : State}
    (h : bad = false → start (withMemory m (acceptGo code req s)) = answerWith m (start (acceptGo code req s))) :
    runCommand code req bad start (withMemory m s) = answerWith m (runCommand code req bad start s) := by
  rw [runCommand, runCommand, apply_ite (answerWith m), apply_ite (answerWith m)]
  cases bad with
  | true => rfl
  | false => rw [← h rfl]; rfl

/-- Checks 2 and 3 leave a buffer that ends inside the address space (R283). -/
theorem badBuffer_inside {req : Request} (h : badBuffer req = false) : req.ptr.toNat + req.size.toNat ≤ 4294967296 :=
  (requestOk_latch 0 h).inside

theorem startWriteRegister_withMemory {m : Memory} {s : State}
    (h : bufBytes m s.q.ptr s.q.size.toNat = bufBytes s.bufmem s.q.ptr s.q.size.toNat) :
    startWriteRegister (withMemory m s) = answerWith m (startWriteRegister s) := by
  have hread : readBytes (withMemory m s) s.q.ptr s.q.size.toNat = _ := readBytes_withMemory h
  rw [startWriteRegister, startWriteRegister]
  refine (congrArg (andThen · _) hread).trans ?_
  cases readBytes s s.q.ptr s.q.size.toNat <;> rfl

/-- The start of a stream reads its first chunk in the buffer of the request (R63, R242). -/
theorem startStream_acceptGo_withMemory {m : Memory} {code : Byte} {req : Request} {s : State} (hb : badBuffer req = false)
    (hm : AgreeOn m s.bufmem req.ptr req.size) :
    startStream (withMemory m (acceptGo code req s)) = answerWith m (startStream (acceptGo code req s)) := by
  refine startStream_withMemory fun _ => ?_
  exact hm.bufBytes_eq (badBuffer_inside hb) 0#32 ((Nat.zero_add _).trans_le (chunkSize_le_remaining req.size))

/-- A command reads its buffer only (R61, R63). -/
theorem dispatchCommand_withMemory {m : Memory} (code : Byte) {req : Request} {s : State} (hm : AgreeOn m s.bufmem req.ptr req.size) :
    dispatchCommand code req (withMemory m s) = answerWith m (dispatchCommand code req s) := by
  unfold dispatchCommand
  split
  · refine runCommand_withMemory fun hok => startWriteRegister_withMemory ?_
    have hbytes := hm.bufBytes_eq (badBuffer_inside (Bool.or_eq_false_iff.1 hok).1) 0#32 (Nat.zero_add req.size.toNat).le
    rwa [BitVec.add_zero] at hbytes
  split
  · exact runCommand_withMemory fun _ => rfl
  split
  · exact runCommand_withMemory fun hok => startStream_acceptGo_withMemory hok hm
  split
  · exact runCommand_withMemory fun hok => startStream_acceptGo_withMemory hok hm
  split
  · exact runCommand_withMemory fun _ => rfl
  · exact runCommand_withMemory fun _ => rfl

/-! ### Instructions and moves -/

/-- The buffer the block may touch: that of the running command, or that of the command in the registers (R61). -/
def bufferPtr (s : State) : Word := if s.busy then s.q.ptr else s.dataPtr

/-- The size of that buffer. -/
def bufferSize (s : State) : Word := if s.busy then s.q.size else s.dataSize

theorem Inv.busy_of_engine {s : State} (h : Inv s) (he : s.engine ≠ .idle) : s.busy = true := by
  rw [h.busy, decide_eq_true he]

/-- What is confined to the buffer of the running command. -/
theorem Confined.of_busy {f : State → Res State} {s : State} {w : Prop} (h : Confined s.q.ptr s.q.size w f s) (hb : s.busy = true) :
    Confined (bufferPtr s) (bufferSize s) w f s := by
  rwa [bufferPtr, bufferSize, if_pos hb, if_pos hb]

theorem Inv.callbackReturn_confined {s : State} {w : Prop} (h : Inv s) (abort : Bool) :
    Confined (bufferPtr s) (bufferSize s) w (callbackReturn abort) s := by
  by_cases he : s.engine = .cbWait
  · refine Confined.of_busy (.of_keeps fun m hm => callbackReturn_withMemory abort fun _ => ?_) (h.busy_of_engine (by simp [he]))
    exact (h.between he).stream.chunkAgrees (h.between he).request hm
  · exact .of_keeps fun m _ => callbackReturn_withMemory abort fun hc => absurd hc he

/-- A GO with BUSY clear reads the buffer in the registers, one with BUSY set at most the next chunk (R287, R288). -/
theorem Inv.execGo_confined {s : State} {w : Prop} (h : Inv s) (cbAck abort : Bool) :
    Confined (bufferPtr s) (bufferSize s) w (execGo cbAck abort) s := by
  cases hb : s.busy with
  | true =>
    cases cbAck with
    | true => exact (h.callbackReturn_confined abort).of_eq fun m => if_pos hb
    | false => exact (Confined.of_next (g := id) fun m => rfl).of_eq fun m => if_pos hb
  | false =>
    have hnb : ¬ s.busy = true := by simp [hb]
    refine Confined.of_eq (g := dispatchCommand s.cmd (requestOf s)) (.of_keeps fun m hm => ?_) fun m => if_neg hnb
    rw [bufferPtr, bufferSize, if_neg hnb, if_neg hnb] at hm
    exact dispatchCommand_withMemory s.cmd hm

/-- A command of the table runs as the GO of its code. -/
theorem exec_command {i : Instr} (hp : i.port = .cmd) : ∃ code req, ∀ s, exec i s = dispatchCommand code req s := by
  cases i with
  | writeRegister req => exact ⟨0x01, req, fun _ => rfl⟩
  | readRegister req => exact ⟨0x02, req, fun _ => rfl⟩
  | writeFifo req => exact ⟨0x04, req, fun _ => rfl⟩
  | readFifo req => exact ⟨0x08, req, fun _ => rfl⟩
  | setChannelTimeout req => exact ⟨0x10, req, fun _ => rfl⟩
  | _ => cases hp

/-- The instructions that a step brings touch the block's buffer only, and write only on an answer to the receive. -/
theorem Inv.exec_confined {s : State} (h : Inv s) {i : Instr} (hp : i.port ≠ .cmd) :
    Confined (bufferPtr s) (bufferSize s) (i.port = .ack ∧ s.engine = .recvWait ∧ byteAt (overwrite s.rxbuf 0 (encode i)) 1 = s.expack)
      (exec i) s := by
  cases hport : i.port with
  | cmd => exact absurd hport hp
  | control =>
    cases i with
    | go cbAck abort => exact h.execGo_confined cbAck abort
    | cbAck => exact h.callbackReturn_confined false
    | cbAckAbort => exact h.callbackReturn_confined true
    | _ => cases hport
  | status =>
    cases i with
    | doneClear => exact .of_next (g := fun u => { u with done := false }) fun m => rfl
    | _ => cases hport
  | request tagged =>
    exact (Confined.of_keeps fun m _ => sendFrame_withMemory m (encode i) s).of_eq fun m => exec_request i tagged _ hport
  | ack =>
    have hrun : ∀ m, exec i (withMemory m s) = recvResponse (BitVec.ofNat 32 (encode i).length) (encode i) (withMemory m s) :=
      fun m => exec_ack i _ hport
    by_cases he : s.engine = .recvWait
    · exact (((h.recvResponse_confined _ _).imp fun hw => ⟨rfl, hw⟩).of_eq hrun).of_busy (h.busy_of_engine (by simp [he]))
    · refine Confined.of_eq (.of_next (g := id) fun m => rfl) fun m => ?_
      rw [hrun]
      exact if_neg he

/-- A step runs no command of the table but by GO: those stand in the registers only (R2, R281). -/
theorem fetch_port_ne_cmd {s : State} {i : Instr} (h : fetch s = some i) : i.port ≠ .cmd := by
  unfold fetch at h
  split at h
  case h_1 w o v hm =>
    split at h
    · have hd := instrOf_some _ _ h
      rw [decode_control] at hd
      rcases controlOf_ok v i hd with ⟨-, rfl⟩ | ⟨-, -, -, rfl⟩ | ⟨-, -, -, rfl⟩ <;> simp [Instr.port]
    split at h
    · have hd := instrOf_some _ _ h
      rw [decode_status] at hd
      simp [(statusOf_ok v i hd).1, Instr.port]
    · cases h
  case h_2 =>
    split at h
    · simp [sendInstr_port s i h]
    · cases h
  case h_3 r d hm =>
    split at h
    · simp [(decodeAckFrame_inv _ _ (instrOf_some _ _ h)).2.1]
    · cases h
  all_goals cases h

/-- A move that is no instruction and no host access to buffer memory touches the block's buffer only. -/
theorem Inv.otherMove_confined {s : State} (h : Inv s) {mv : Move} (hload : ∀ a, mv ≠ .bufLoad a) (hstore : ∀ a v, mv ≠ .bufStore a v) :
    Confined (bufferPtr s) (bufferSize s) (s.engine = .recvWait) (otherMove mv) s := by
  cases mv with
  | engine => exact .of_next fun m => engineTurn_withMemory m s
  | hostWrite width offset v =>
    cases ha : admitted width offset with
    | true => exact (Confined.of_next fun m => writeReg_withMemory m offset v s).of_eq fun m => by rw [otherMove, if_pos ha]
    | false => exact .of_keeps fun m _ => by rw [otherMove, otherMove, ha]; rfl
  | hostRead width offset =>
    cases ha : admitted width offset with
    | true =>
      exact (Confined.of_next (g := fun u => { u with portData := readReg offset u }) fun m => rfl).of_eq fun m => by
        rw [otherMove, if_pos ha]
    | false => exact .of_keeps fun m _ => by rw [otherMove, otherMove, ha]; rfl
  | response r d =>
    by_cases he : s.engine = .idle
    · have hself (m : Memory) : (withMemory m s).engine = s.engine := rfl
      exact (Confined.of_next (g := id) fun m => rfl).of_eq fun m => by rw [otherMove, response, hself, he]; rfl
    · exact (h.response_confined r d).of_busy (h.busy_of_engine he)
  | lateResponse r d => exact .of_next (g := id) fun m => rfl
  | time ms => exact .of_next (g := fun u => { u with timeMs := u.timeMs + BitVec.ofNat 32 ms }) fun m => rfl
  | bufStore a v => exact absurd rfl (hstore a v)
  | bufLoad a => exact absurd rfl (hload a)
  | rst => exact .of_next (g := resetBlock) fun m => rfl

/-- A step that is no host access to buffer memory touches the block's buffer only, and writes only on an answer to the receive. -/
theorem Inv.step_confined {s : State} (h : Inv s) (hload : ∀ a, nextMove s ≠ .bufLoad a) (hstore : ∀ a v, nextMove s ≠ .bufStore a v) :
    Confined (bufferPtr s) (bufferSize s) (s.engine = .recvWait) step s := by
  have hpop : Inv (popMove s) := h.quiet {}
  have hfetch (m : Memory) : fetch (withMemory m s) = fetch s := rfl
  cases hf : fetch s with
  | some i =>
    have hi := (hpop.exec_confined (fetch_port_ne_cmd hf)).imp fun hw => hw.2.1
    exact hi.of_eq fun m => by rw [step, hfetch, hf]; rfl
  | none => exact (hpop.otherMove_confined hload hstore).of_eq fun m => by rw [step, hfetch, hf]; rfl

/-! ### What a confined operation leaves in memory -/

/-- Setting the same bytes makes no difference where two memories read the same. -/
theorem memGet_memSetAll_congr {m m0 : Memory} (hm : m.wf = true) (hm0 : m0.wf = true) (a : Word) (bs : List Byte) {b : Nat}
    (h : memGet m b = memGet m0 b) : memGet (memSetAll m a bs) b = memGet (memSetAll m0 a bs) b := by
  induction bs generalizing m m0 a with
  | nil => exact h
  | cons v vs ih =>
    refine ih (memWfFrom_memSet m 0 _ v a.isLt (Nat.zero_le _) hm) (memWfFrom_memSet m0 0 _ v a.isLt (Nat.zero_le _) hm0) (a + 1) ?_
    rw [memGet_memSet_from m 0 _ _ _ hm, memGet_memSet_from m0 0 _ _ _ hm0, h]

/-- The memory that a confined operation leaves. -/
theorem Confined.bufmem {ptr size : Word} {w : Prop} {f : State → Res State} {s t : State} (h : Confined ptr size w f s)
    (ht : f s = .next t) : ∃ a bs, (bs ≠ [] → w ∧ InReadBuffer s.q a bs) ∧ t.bufmem = memSetAll s.bufmem a bs ∧
      ∀ m, AgreeOn m s.bufmem ptr size → f (withMemory m s) = .next (withMemory (memSetAll m a bs) t) := by
  obtain ⟨a, bs, hin, hm⟩ := h
  rw [ht] at hm
  have hself : f s = .next (withMemory (memSetAll s.bufmem a bs) t) := hm s.bufmem fun _ _ _ => rfl
  refine ⟨a, bs, hin, ?_, hm⟩
  rw [ht] at hself
  exact congrArg State.bufmem (Host.Outcome.next.inj hself)

/-- A byte outside the bytes written in the buffer of a read command reads as before (R65). -/
theorem memGet_memSetAll_of_not_written {m : Memory} (hm : m.wf = true) {q : Latched} {a : Word} {bs : List Byte}
    (hin : bs ≠ [] → InReadBuffer q a bs) {b : Nat} (hb : bs ≠ [] → b < a.toNat ∨ a.toNat + bs.length ≤ b) :
    memGet (memSetAll m a bs) b = memGet m b := by
  by_cases hbs : bs = []
  · rw [hbs]; rfl
  · have hupper := (hin hbs).upper
    exact memGet_memSetAll_outside m a bs b hm (hupper.trans (hin hbs).inside) (hb hbs)

/-- A confined operation changes bytes only in the buffer of a read command, and only where `w` holds. -/
theorem Confined.changed {ptr size : Word} {w : Prop} {f : State → Res State} {s t : State} (h : Confined ptr size w f s)
    (ht : f s = .next t) (hm : s.bufmem.wf = true) {b : Nat} (hne : memGet t.bufmem b ≠ memGet s.bufmem b) :
    w ∧ (s.q.code = 0x02 ∨ s.q.code = 0x08) ∧ s.q.ptr.toNat ≤ b ∧ b < s.q.ptr.toNat + s.q.size.toNat := by
  obtain ⟨a, bs, hin, hmem, -⟩ := h.bufmem ht
  rw [hmem] at hne
  have hwritten : bs ≠ [] ∧ ¬ (b < a.toNat ∨ a.toNat + bs.length ≤ b) := by
    simpa using mt (memGet_memSetAll_of_not_written hm fun hbs => (hin hbs).2) hne
  obtain ⟨hbs, hb⟩ := hwritten
  obtain ⟨hw, hcode, hlower, hupper, -⟩ := hin hbs
  exact ⟨hw, hcode, by omega, by omega⟩

/-- With the same bytes written, two memories that agree on the buffer change in the same bytes and to the same values. -/
theorem memGet_memSetAll_patch {m m0 : Memory} (hm : m.wf = true) (hm0 : m0.wf = true) {q : Latched} {a : Word} {bs : List Byte}
    (hin : bs ≠ [] → InReadBuffer q a bs) (hagree : bs ≠ [] → AgreeOn m m0 q.ptr q.size) (b : Nat) :
    memGet (memSetAll m a bs) b =
      if memGet (memSetAll m0 a bs) b = memGet m0 b then memGet m b else memGet (memSetAll m0 a bs) b := by
  by_cases hb : memGet m b = memGet m0 b
  · rw [memGet_memSetAll_congr hm hm0 a bs hb, hb]
    split
    · assumption
    · rfl
  · have hout : bs ≠ [] → b < a.toNat ∨ a.toNat + bs.length ≤ b := fun hbs => by
      obtain ⟨-, hlower, hupper, -⟩ := hin hbs
      by_contra hc
      exact hb (hagree hbs b (by omega) (by omega))
    rw [memGet_memSetAll_of_not_written hm hin hout, if_pos (memGet_memSetAll_of_not_written hm0 hin hout)]

/-- The answer to a read command is awaited with the ack byte of its kind (R171, R173). -/
theorem Inv.expack_of_read {s : State} (h : Inv s) (he : s.engine = .recvWait) (hc : s.q.code = 0x02 ∨ s.q.code = 0x08) :
    s.expack = 0x82 ∨ s.expack = 0x88 := by
  obtain ⟨-, hx | hx⟩ := (runningOk_iff_dataOk (by simp [he]) (by simp [he])).1 h.running
  · rcases hx.frame with ⟨h1, -⟩ | ⟨-, -, hack, -⟩
    · simp [h1] at hc
    · exact .inl hack
  · rcases (hx.chunk (by simp [he])).ack with ⟨h4, -⟩ | ⟨-, -, hack⟩
    · simp [h4] at hc
    · exact .inr hack

/-! ### The host's accesses -/

theorem step_bufStore {s : State} {a : Word} {v : Byte} (hm : nextMove s = .bufStore a v) : step s = hostStore a v (popMove s) := by
  have hf : fetch s = none := by simp [fetch, hm]
  rw [step, hf, hm]
  rfl

theorem step_bufLoad {s : State} {a : Word} (hm : nextMove s = .bufLoad a) : step s = hostLoad a (popMove s) := by
  have hf : fetch s = none := by simp [fetch, hm]
  rw [step, hf, hm]
  rfl

theorem inRunningBuffer_iff {s : State} (hc : s.q.code ≠ 0x10) (a : Word) :
    inRunningBuffer s a = true ↔ s.busy = true ∧ s.q.ptr.toNat ≤ a.toNat ∧ a.toNat < s.q.ptr.toNat + s.q.size.toNat := by
  rw [inRunningBuffer, bne_iff_ne.2 hc, Bool.and_true]
  simp [and_assoc]

theorem mayLoad_iff (s : State) (a : Word) :
    mayLoad s a = true ↔ inRunningBuffer s a = false ∨ (s.chunkPending = true ∧ a.toNat < s.q.ptr.toNat + s.bytesDone.toNat) := by
  simp [mayLoad]

theorem hostLoad_backed {s : State} {a : Word} (hb : isBacked s a = true) :
    hostLoad a s = if mayLoad s a then .next { s with bufData := memGet s.bufmem a.toNat }
      else .next { s with bufData := (Config.freeWord s.freeCount 0).setWidth 8, freeCount := s.freeCount + 1 } := by
  rw [hostLoad, memRead_eq s a hb, andThen_next]

/-! ### The canonical form -/

theorem memWfFrom_cons_iff (lo a : Nat) (v : Byte) (m : Memory) : memWfFrom lo ((a, v) :: m) = true ↔
    lo ≤ a ∧ a < 4294967296 ∧ v ≠ unlistedByte ∧ memWfFrom (a + 1) m = true := by
  simp [memWfFrom, and_assoc]

theorem memGet_cons_self (a : Nat) (v : Byte) (m : Memory) : memGet ((a, v) :: m) a = v := if_pos rfl

theorem memGet_cons_of_ne {a b : Nat} (h : b ≠ a) (v : Byte) (m : Memory) : memGet ((b, v) :: m) a = memGet m a := if_neg h

/-- The first byte of one canonical memory is listed in every other with the same bytes, so none begins later. -/
theorem head_le_of_memGet_eq {m m' : Memory} {lo lo' a b : Nat} {v w : Byte} (h : memWfFrom lo ((a, v) :: m) = true)
    (h' : memWfFrom lo' ((b, w) :: m') = true) (heq : memGet ((a, v) :: m) a = memGet ((b, w) :: m') a) : b ≤ a := by
  obtain ⟨-, -, hv, -⟩ := (memWfFrom_cons_iff ..).1 h
  obtain ⟨-, -, -, hm'⟩ := (memWfFrom_cons_iff ..).1 h'
  by_contra hlt
  rw [memGet_cons_self, memGet_cons_of_ne (by omega), memGet_below m' (b + 1) a hm' (by omega)] at heq
  exact hv heq

/-- Canonical memories with the same bytes are the same data. -/
theorem memory_ext_from {m m' : Memory} {lo lo' : Nat} (h : memWfFrom lo m = true) (h' : memWfFrom lo' m' = true)
    (heq : ∀ a, memGet m a = memGet m' a) : m = m' := by
  induction m generalizing lo lo' m' with
  | nil =>
    cases m' with
    | nil => rfl
    | cons y m' =>
      obtain ⟨-, -, hw, -⟩ := (memWfFrom_cons_iff lo' y.1 y.2 m').1 h'
      exact absurd ((heq y.1).trans (memGet_cons_self y.1 y.2 m')).symm hw
  | cons x m ih =>
    obtain ⟨a, v⟩ := x
    obtain ⟨-, -, hv, hm⟩ := (memWfFrom_cons_iff ..).1 h
    cases m' with
    | nil => exact absurd ((memGet_cons_self a v m).symm.trans (heq a)) hv
    | cons y m' =>
      obtain ⟨b, w⟩ := y
      obtain ⟨-, -, -, hm'⟩ := (memWfFrom_cons_iff ..).1 h'
      obtain rfl : a = b := le_antisymm (head_le_of_memGet_eq h' h (heq b).symm) (head_le_of_memGet_eq h h' (heq a))
      have hvw : v = w := by simpa only [memGet_cons_self] using heq a
      have htail : ∀ c, memGet m c = memGet m' c := fun c => by
        by_cases hc : a = c
        · rw [memGet_below m (a + 1) c hm (by omega), memGet_below m' (a + 1) c hm' (by omega)]
        · simpa only [memGet_cons_of_ne hc] using heq c
      rw [hvw, ih hm hm' htail]

/-! ## The first unbacked byte of a range -/

theorem pieceOf_eq_chunkSize (n : Word) : pieceOf n = chunkSize n := by
  rw [chunkSize_eq_min, pieceOf]
  split <;> omega

theorem startWriteRegister_unbacked {s : State} {j : Nat} (h : FirstUnbacked s s.q.ptr s.q.size.toNat j) :
    startWriteRegister s = .fault (.unbackedByte (s.q.ptr + BitVec.ofNat 32 j)) := by
  obtain ⟨hj, hbacked, hstop⟩ := h
  rw [startWriteRegister, readBytes_unbacked s _ _ j hj hbacked hstop]
  rfl

theorem startChunk_unbacked {s : State} {j : Nat} (hc : s.q.code = 0x04) (h : FirstUnbacked s (chunkAddr s) (pieceOf s.c.remaining) j) :
    startChunk s = .fault (.unbackedByte (chunkAddr s + BitVec.ofNat 32 j)) := by
  obtain ⟨hj, hbacked, hstop⟩ := h
  rw [pieceOf_eq_chunkSize] at hj
  rw [startChunk, if_pos hc, readBytes_unbacked s _ _ j hj hbacked hstop]
  rfl

theorem startStream_unbacked {s : State} {j : Nat} (hc : s.q.code = 0x04) (h : FirstUnbacked s s.q.ptr (pieceOf s.q.size) j) :
    startStream s = .fault (.unbackedByte (s.q.ptr + BitVec.ofNat 32 j)) := by
  have hsize : s.q.size ≠ 0 := by
    intro h0
    rw [h0] at h
    exact Nat.not_lt_zero j h.1
  have haddr : chunkAddr { s with c := { remaining := s.q.size, offset := 0, first := true } } = s.q.ptr := BitVec.add_zero _
  have hchunk := startChunk_unbacked (s := { s with c := { remaining := s.q.size, offset := 0, first := true } }) (j := j) hc
  rw [haddr] at hchunk
  exact (if_neg hsize).trans (hchunk h)

/-! ### Commands -/

theorem runCommand_starts {code : Byte} {req : Request} {bad : Bool} {start : State → Res State} {s : State} (hb : s.busy = false)
    (hbad : bad = false) : runCommand code req bad start s = start (acceptGo code req s) := by
  simp [runCommand, hb, hbad]

/-- A data command that keeps the caller's contract passes checks 2 and 3 (R283). -/
theorem badBuffer_of_not_violates {code : Byte} {req : Request} (hc : code ≠ 0x10) (h : ¬ Violates code req) : badBuffer req = false := by
  simp only [Violates, not_or, not_and, not_lt] at h
  obtain ⟨-, hnull, hwrap, -⟩ := h
  simp only [badBuffer, Bool.or_eq_false_iff, Bool.and_eq_false_imp, decide_eq_true_eq, decide_eq_false_iff_not, not_lt]
  exact ⟨hnull hc, hwrap hc⟩

/-- A register command that keeps the caller's contract passes check 4 (R284). -/
theorem oversized_of_not_violates {code : Byte} {req : Request} (hc : code = 0x01 ∨ code = 0x02) (h : ¬ Violates code req) :
    oversized req = false := by
  simp only [Violates, not_or, not_and, not_lt] at h
  obtain ⟨-, -, -, hsize⟩ := h
  simpa [oversized] using hsize hc

theorem dispatchCommand_writeRegister_unbacked {req : Request} {s : State} {j : Nat} (hb : s.busy = false) (hv : ¬ Violates 0x01 req)
    (h : FirstUnbacked s req.ptr req.size.toNat j) :
    dispatchCommand 0x01 req s = .fault (.unbackedByte (req.ptr + BitVec.ofNat 32 j)) := by
  have hok : (badBuffer req || oversized req) = false := by
    rw [badBuffer_of_not_violates (by decide) hv, oversized_of_not_violates (.inl rfl) hv]; rfl
  exact (runCommand_starts hb hok).trans (startWriteRegister_unbacked h)

theorem dispatchCommand_writeFifo_unbacked {req : Request} {s : State} {j : Nat} (hb : s.busy = false) (hv : ¬ Violates 0x04 req)
    (h : FirstUnbacked s req.ptr (pieceOf req.size) j) :
    dispatchCommand 0x04 req s = .fault (.unbackedByte (req.ptr + BitVec.ofNat 32 j)) :=
  (runCommand_starts hb (badBuffer_of_not_violates (by decide) hv)).trans (startStream_unbacked rfl h)

/-! ### Accepted acknowledgements -/

/-- The covered length is that of the spec where the count check passes (R173, R176). -/
theorem coveredLength_of_passes {s : State} (h : s.expack = 0x88 → (byteAt s.rxbuf 6).toNat ≤ s.k.size) :
    coveredLength s = some (covered s s.rxbuf) := by
  unfold coveredLength covered
  split
  · rename_i h88
    exact if_neg (Nat.not_lt.2 (h h88))
  · rfl

/-- A receive buffer that passes the checks, with a status of 0 or more, is accepted (R176, R177). -/
theorem decodeAck_of_passes {r : Word} {s : State} (hr : r.toInt = s.rxn) (h : Passes s s.rxbuf)
    (hst : 0 ≤ (statusOfFrame s.rxbuf).toInt) : decodeAck r s = .ok (statusOfFrame s.rxbuf) := by
  obtain ⟨hcount, hlen, hcrc, hack⟩ := h
  have hmsb : ¬ (ackStatus s.rxbuf).msb = true := by
    rw [BitVec.msb_eq_toInt, decide_eq_true_eq]
    exact not_lt.2 hst
  rw [decodeAck, if_neg (not_not.2 hr), coveredLength_of_passes hcount]
  exact (if_neg hlen).trans ((if_neg (not_not.2 hcrc)).trans ((if_neg (not_not.2 hack)).trans (if_neg hmsb)))

/-- The response taken, for a full count (R142). -/
theorem takeResponse_eq_received {r : Word} {d : List Byte} {s : State} (hr : r.toInt = s.rxn) : takeResponse r d s = received d s := by
  rw [takeResponse, if_pos hr, overwrite]
  simp [received]

/-- A body with the expected ack byte passes the checks with its CRC behind it, whatever follows (R176). -/
theorem passes_frame {s : State} {body : List Byte} (hlen : body.getD 0 0 ≠ 0) (hack : body.getD 1 0 = s.expack)
    (hcov : covered s body = body.length) (hcount : s.expack = 0x88 → (body.getD 6 0).toNat ≤ s.k.size) (h2 : 2 ≤ body.length)
    (rest : List Byte) : Passes s (body ++ crc8 body :: rest) := by
  have hbyte (i : Nat) (hi : i < body.length) : (body ++ crc8 body :: rest).getD i 0 = body.getD i 0 := List.getD_append _ _ _ _ hi
  have hbyte6 (h88 : s.expack = 0x88) : (body ++ crc8 body :: rest).getD 6 0 = body.getD 6 0 := by
    rw [covered, if_pos h88] at hcov
    exact hbyte 6 (by omega)
  have hcovered : covered s (body ++ crc8 body :: rest) = body.length := by
    rw [← hcov, covered, covered]
    split
    · rename_i h88
      rw [hbyte6 h88]
    · rfl
  refine ⟨fun h88 => by rw [hbyte6 h88]; exact hcount h88, by rwa [hbyte 0 (by omega)], ?_, by rwa [hbyte 1 (by omega)]⟩
  rw [hcovered, List.take_left, List.getD_append_right _ _ _ _ le_rfl, Nat.sub_self]
  rfl

/-- A frame that carries its own CRC, the expected ack byte and a status of 0 or more is accepted (R174, R176, R197, R228). -/
theorem recvFrame_accepted {s : State} {len : Byte} {st : Word} {body tail rest : List Byte}
    (hbody : body = len :: s.expack :: (le32 st ++ tail)) (he : s.engine = .recvWait) (hlen : len ≠ 0) (hst : 0 ≤ st.toInt)
    (hrxn : (body ++ crc8 body :: rest).length = s.rxn) (h248 : s.rxn ≤ 248) (hcov : covered s body = body.length)
    (hcount : s.expack = 0x88 → (body.getD 6 0).toNat ≤ s.k.size) :
    recvFrame (body ++ crc8 body :: rest) s = ackAccept st (received (body ++ crc8 body :: rest) s) := by
  have hr : (BitVec.ofNat 32 (body ++ crc8 body :: rest).length).toInt = s.rxn := by
    rw [toInt_ofNat_len _ (hrxn ▸ h248), hrxn]
  have hbuf : (received (body ++ crc8 body :: rest) s).rxbuf = body ++ crc8 body :: (rest ++ s.rxbuf.drop s.rxn) := by
    simp [received, ← hrxn]
  have hpasses : Passes s (received (body ++ crc8 body :: rest) s).rxbuf := by
    rw [hbuf]
    exact passes_frame (by rwa [hbody]) (by rw [hbody]; rfl) hcov hcount (by simp [hbody]) _
  have hstatus : statusOfFrame (received (body ++ crc8 body :: rest) s).rxbuf = st := by
    rw [hbuf, hbody]
    exact s32le_bytes st
  have hok := decodeAck_of_passes (s := received (body ++ crc8 body :: rest) s) hr hpasses (by rwa [hstatus])
  rw [hstatus] at hok
  rw [recvFrame, recvResponse, if_pos he, if_neg (fun h => h.2 hrxn), takeResponse_eq_received hr, hok]
  rfl

/-- An `ACK_WRITE_FIFO` that is accepted (R172). -/
theorem ackWriteFifo_accepted {s : State} {len : Byte} {st : Word} (he : s.engine = .recvWait) (hack : s.expack = 0x84)
    (hrxn : s.rxn = 7) (hlen : len ≠ 0) (hst : 0 ≤ st.toInt) :
    exec (.ackWriteFifo len st (crc8 ([len, 0x84] ++ le32 st))) s =
      ackAccept st (received ([len, 0x84] ++ le32 st ++ [crc8 ([len, 0x84] ++ le32 st)]) s) :=
  recvFrame_accepted (tail := []) (by rw [hack]; rfl) he hlen hst (by rw [hrxn]; rfl) (by omega) (by simp [covered, hack, hrxn])
    (by simp [hack])

/-- An `ACK_READ` that is accepted (R171). -/
theorem ackRead_accepted {s : State} {len : Byte} {st : Word} {data : List Byte} (he : s.engine = .recvWait) (hack : s.expack = 0x82)
    (hrxn : s.rxn = data.length + 7) (h248 : s.rxn ≤ 248) (hlen : len ≠ 0) (hst : 0 ≤ st.toInt) :
    exec (.ackRead len st data (crc8 ([len, 0x82] ++ le32 st ++ data))) s =
      ackAccept st (received ([len, 0x82] ++ le32 st ++ data ++ [crc8 ([len, 0x82] ++ le32 st ++ data)]) s) :=
  recvFrame_accepted (tail := data) (by rw [hack]; rfl) he hlen hst (by simp [hrxn]; omega) h248
    (by simp [covered, hack, hrxn]; omega) (by simp [hack])

/-- The count of a chunk fits its byte (R101). -/
theorem toNat_count {n : Nat} (h : n ≤ 240) : (BitVec.ofNat 8 n).toNat = n := by
  rw [BitVec.toNat_ofNat]; omega

/-- An `ACK_READ_FIFO` that is accepted (R173). -/
theorem ackReadFifo_accepted {s : State} {len : Byte} {st : Word} {data rest : List Byte} (he : s.engine = .recvWait)
    (hack : s.expack = 0x88) (hrxn : s.rxn = data.length + rest.length + 8) (h248 : s.rxn ≤ 248) (hk : data.length ≤ s.k.size)
    (hlen : len ≠ 0) (hst : 0 ≤ st.toInt) :
    let body := [len, 0x88] ++ le32 st ++ [BitVec.ofNat 8 data.length] ++ data
    exec (.ackReadFifo len st data (crc8 body) rest) s = ackAccept st (received (body ++ crc8 body :: rest) s) := by
  intro body
  have hcount : (body.getD 6 0).toNat = data.length := toNat_count (by omega)
  have hbody : body.length = 7 + data.length := by simp [body]; omega
  have hframe : encode (.ackReadFifo len st data (crc8 body) rest) = body ++ crc8 body :: rest := (List.append_cons ..).symm
  change recvFrame _ s = _
  rw [hframe]
  exact recvFrame_accepted (tail := BitVec.ofNat 8 data.length :: data) (by rw [hack]; rfl) he hlen hst (by simp [hbody, hrxn]; omega) h248
    (by rw [covered, if_pos hack, hcount, hbody]) fun _ => hcount.trans_le hk

/-- The bytes behind the first ones of a received frame. -/
theorem received_slice (pre data rest : List Byte) (s : State) :
    ((received (pre ++ data ++ rest) s).rxbuf.drop pre.length).take data.length = data := by
  simp [received]

/-! ### The chunks and answers that find an unbacked byte -/

theorem advance_eq_chunkAccepted (st : Word) (a : Nat) (s : State) : advance st a s = chunkAccepted st a s := by
  simp only [advance, chunkAccepted, sub_eq_zero, BitVec.slt, Bool.decide_or]
  rfl

theorem continueStream_goesOn {s : State} (h : s.e.pending = false) : continueStream false s = startChunk s := by
  simp [continueStream, h]

/-- An accepted `WRITE_FIFO` chunk without a callback and without an end opens the next chunk (R239). -/
theorem chunkOk_write_goesOn {st : Word} {a : Nat} {s : State} (hc : s.q.code = 0x04) (hcb : s.q.cbEn = false)
    (hp : (chunkAccepted st a s).e.pending = false) : chunkOk st a s = startChunk (chunkAccepted st a s) := by
  rw [chunkOk_goesOn (by simp [readStops, hc]), if_neg (by simp [hc]), andThen_next, closeChunk, if_neg (by simp [hcb]),
    advance_eq_chunkAccepted, continueStream_goesOn hp]

theorem chunkOk_read_unbacked {st : Word} {a j : Nat} {s : State} {data : List Byte} (hc : s.q.code = 0x08) (hst : st ≠ 1)
    (hdata : (s.rxbuf.drop 7).take a = data) (h : FirstUnbacked s (chunkAddr s) data.length j) :
    chunkOk st a s = .fault (.unbackedByte (chunkAddr s + BitVec.ofNat 32 j)) := by
  obtain ⟨hj, hbacked, hstop⟩ := h
  have ha : a ≠ 0 := by
    rintro rfl
    rw [← hdata] at hj
    exact Nat.not_lt_zero j hj
  have hgoes : readStops st a s = false := by
    simp only [readStops, Config.fifoEmptyStatus, beq_eq_false_iff_ne.2 hst, beq_eq_false_iff_ne.2 ha, Bool.or_self, Bool.and_false]
  rw [chunkOk_goesOn hgoes, if_pos hc, hdata, writeBytes_unbacked _ _ _ j hj hbacked hstop]
  rfl

theorem regAccept_unbacked {st : Word} {j : Nat} {s : State} {data : List Byte} (hc : s.q.code = 0x02)
    (hdata : (s.rxbuf.drop 6).take s.q.size.toNat = data) (h : FirstUnbacked s s.q.ptr data.length j) :
    regAccept st s = .fault (.unbackedByte (s.q.ptr + BitVec.ofNat 32 j)) := by
  obtain ⟨hj, hbacked, hstop⟩ := h
  rw [regAccept, if_pos hc, hdata, writeBytes_unbacked _ _ _ j hj hbacked hstop]
  rfl

end Sys2Proof.Machine

namespace Sys2Proof.Proofs

open Sys2Proof Sys2Proof.Machine Sys2Proof.Claims

/-! ## The statements about buffer memory (20_memory.md) -/

/-- Settles O55: a step is confined to the block's buffer, and a host load writes nothing. -/
theorem engineWritesOnlyInsideTheBuffer : Obligations.EngineWritesOnlyInsideTheBuffer := by
  unfold Obligations.EngineWritesOnlyInsideTheBuffer
  intro s t hinv ht hstore a hne
  by_cases hload : ∃ b, nextMove s = .bufLoad b
  · obtain ⟨b, hm⟩ := hload
    obtain ⟨-, v, n, rfl⟩ := hostLoad_next b _ _ ((step_bufLoad hm).symm.trans ht)
    exact absurd rfl hne
  · obtain ⟨he, hbuffer⟩ := (hinv.step_confined (not_exists.1 hload) hstore).changed ht hinv.bounds.memory hne
    exact ⟨hinv.busy_of_engine (by simp [he]), he, hbuffer⟩

/-- Settles O56: a step is confined to the block's buffer, so with the other memory it writes the same bytes at the same place. -/
theorem engineReadsOnlyInsideTheBuffer : Obligations.EngineReadsOnlyInsideTheBuffer := by
  unfold Obligations.EngineReadsOnlyInsideTheBuffer
  intro s t m hinv hwf ht hload hstore hagree
  obtain ⟨b, bs, hin, hmem, hm⟩ := (hinv.step_confined hload hstore).bufmem ht
  refine ⟨_, hm m hagree, fun a => ?_⟩
  rw [hmem]
  refine memGet_memSetAll_patch hwf hinv.bounds.memory (fun hbs => (hin hbs).2) (fun hbs => ?_) a
  have hb : s.busy = true := hinv.busy_of_engine (by simp [(hin hbs).1])
  simp only [hb, if_true] at hagree
  exact hagree

/-- Settles O10, by the read of a `memSet` and the extensionality of the canonical form. -/
theorem memoryReadAfterWrite : Obligations.MemoryReadAfterWrite := by
  unfold Obligations.MemoryReadAfterWrite
  refine ⟨fun m a b v hm ha => ⟨memWfFrom_memSet m 0 a v ha (Nat.zero_le a) hm, ?_⟩, fun m m' hm hm' heq => memory_ext_from hm hm' heq⟩
  rw [memGet_memSet_from m 0 a b v hm]
  simp only [eq_comm]

/-- Settles O11: each operation starts the read or the write of its range at once, which stops at the first unbacked byte. -/
theorem unbackedBufferByteStops : Obligations.UnbackedBufferByteStops := by
  unfold Obligations.UnbackedBufferByteStops
  refine ⟨fun req s j hb hv hu => ?_, fun req s j hb hv hu => ?_, fun cb ab s j hb hv hu => ?_, fun s j he hp hc hu => ?_, ?_, ?_, ?_⟩
  · exact dispatchCommand_writeRegister_unbacked hb hv hu
  · exact dispatchCommand_writeFifo_unbacked hb hv hu
  · have hgo : exec (.go cb ab) s = dispatchCommand s.cmd (requestOf s) s := if_neg (by simp [hb])
    rw [hgo]
    rcases hu with ⟨hc, hu⟩ | ⟨hc, hu⟩ <;> rw [hc] at hv ⊢
    · exact dispatchCommand_writeRegister_unbacked hb hv hu
    · exact dispatchCommand_writeFifo_unbacked hb hv hu
  · have hreturn : exec .cbAck s = continueStream false { s with chunkPending := false } := if_pos he
    exact (hreturn.trans (continueStream_goesOn hp)).trans (startChunk_unbacked (s := { s with chunkPending := false }) hc hu)
  · intro len st s j he hc hrxn hack hlen hst c u hcb hp hu
    rw [ackWriteFifo_accepted he hack hrxn hlen hst]
    let v := received ([len, 0x84] ++ le32 st ++ [c]) s
    exact (ackAccept_writeFifo (s := v) hc st).trans
      ((chunkOk_write_goesOn (s := v) hc hcb hp).trans (startChunk_unbacked (s := u) hc hu))
  · intro len st data s j he hc hack hrxn hsize h248 hlen hst hu
    rw [ackRead_accepted he hack hrxn h248 hlen hst]
    have hdata := received_slice ([len, 0x82] ++ le32 st) data [crc8 ([len, 0x82] ++ le32 st ++ data)] s
    let v := received ([len, 0x82] ++ le32 st ++ data ++ [crc8 ([len, 0x82] ++ le32 st ++ data)]) s
    exact (ackAccept_readRegister (s := v) hc st).trans (regAccept_unbacked (s := v) hc (hsize.symm ▸ hdata) hu)
  · intro len st data rest s j he hc hack hrxn h248 hk hlen hst hst1 hu
    rw [ackReadFifo_accepted he hack hrxn h248 hk hlen hst]
    let pre := [len, 0x88] ++ le32 st ++ [BitVec.ofNat 8 data.length]
    let v := received (pre ++ data ++ crc8 (pre ++ data) :: rest) s
    have hcount : (byteAt v.rxbuf 6).toNat = data.length := toNat_count (by omega)
    have hdata : (v.rxbuf.drop 7).take data.length = data := received_slice pre data (crc8 (pre ++ data) :: rest) s
    refine (ackAccept_readFifo (s := v) hc st).trans ?_
    rw [hcount]
    exact chunkOk_read_unbacked (s := v) hc hst1 hdata hu

/-- Settles O12: the two accesses run as the moves they are, by the branches of `hostStore` and `hostLoad`. -/
theorem hostBufferAccesses : Obligations.HostBufferAccesses := by
  unfold Obligations.HostBufferAccesses
  refine ⟨fun s a v hm hb => ⟨fun hout => ?_, fun hin => ?_⟩, fun s a hm hb => ?_, fun s a hc => inRunningBuffer_iff hc a⟩
  · rw [step_bufStore hm]
    have hout' : ¬ inRunningBuffer (popMove s) a = true := Bool.eq_false_iff.1 hout
    exact (if_neg hout').trans (if_pos hb)
  · rw [step_bufStore hm]
    exact if_pos hin
  · rw [step_bufLoad hm, hostLoad_backed (s := popMove s) hb]
    refine ⟨fun hmay => if_pos ((mayLoad_iff s a).2 hmay), ?_⟩
    split
    · exact ⟨_, s.freeCount, rfl⟩
    · exact ⟨_, _, rfl⟩

/-- Settles O57: only an accepted acknowledgement writes, and the ack byte that a read command awaits is that of a read acknowledgement. -/
theorem onlyReadAcksWriteMemory : Obligations.OnlyReadAcksWriteMemory := by
  unfold Obligations.OnlyReadAcksWriteMemory
  intro i s t hinv ht hread hfifo a
  by_contra hne
  by_cases hp : i.port = .cmd
  · obtain ⟨code, req, hrun⟩ := exec_command hp
    have hc : Confined req.ptr req.size False (dispatchCommand code req) s := .of_keeps fun m => dispatchCommand_withMemory code
    exact (hc.changed ((hrun s).symm.trans ht) hinv.bounds.memory hne).1
  obtain ⟨⟨hack, he, hbyte⟩, hcode, -⟩ := (hinv.exec_confined hp).changed ht hinv.bounds.memory hne
  have hx := hinv.expack_of_read he hcode
  rw [← hbyte] at hx
  cases i with
  | ackRead len st data crc => exact hread _ _ _ _ rfl
  | ackReadFifo len st data crc rest => exact hfifo _ _ _ _ _ rfl
  | ackWrite len st crc => exact absurd hx (by decide : ¬ ((0x81 : Byte) = 0x82 ∨ (0x81 : Byte) = 0x88))
  | ackWriteFifo len st crc => exact absurd hx (by decide : ¬ ((0x84 : Byte) = 0x82 ∨ (0x84 : Byte) = 0x88))
  | ackError len st rest => exact absurd hx (by decide : ¬ ((0xC0 : Byte) = 0x82 ∨ (0xC0 : Byte) = 0x88))
  | _ => cases hack

end Sys2Proof.Proofs

namespace Sys2Proof.Machine

open Claims

/-! ## Encodings (30_encoding.md) -/

/-! ### The register block and the register words -/

/-- A host command is encoded as the register block whose CODE names it (R69, R80). -/
theorem encode_command {i : Instr} (hp : i.port = .cmd) : ∃ code req, encode i = requestBlock code req ∧ commandOf code req = some i := by
  cases i with
  | writeRegister req => exact ⟨0x01, req, rfl, rfl⟩
  | readRegister req => exact ⟨0x02, req, rfl, rfl⟩
  | writeFifo req => exact ⟨0x04, req, rfl, rfl⟩
  | readFifo req => exact ⟨0x08, req, rfl, rfl⟩
  | setChannelTimeout req => exact ⟨0x10, req, rfl, rfl⟩
  | _ => cases hp

theorem controlWord_bits (go cbAck abort : Bool) : (controlWord go cbAck abort).getLsbD 0 = go ∧
    (controlWord go cbAck abort).getLsbD 1 = cbAck ∧ (controlWord go cbAck abort).getLsbD 2 = abort := by
  simp [controlWord]

/-- A control action is encoded as a CONTROL word that means it (R30, R288). -/
theorem encode_control {i : Instr} (hp : i.port = .control) : ∃ w, encode i = le32 w ∧ controlOf w = .ok i := by
  cases i with
  | go cbAck abort =>
    obtain ⟨hgo, hcb, hab⟩ := controlWord_bits true cbAck abort
    exact ⟨_, rfl, by rw [controlOf, if_pos hgo, hcb, hab]⟩
  | cbAck => exact ⟨_, rfl, rfl⟩
  | cbAckAbort => exact ⟨_, rfl, rfl⟩
  | _ => cases hp

/-- A status action is encoded as a STATUS word that means it (R293). -/
theorem encode_status {i : Instr} (hp : i.port = .status) : ∃ w, encode i = le32 w ∧ statusOf w = .ok i := by
  cases i with
  | doneClear => exact ⟨2, rfl, rfl⟩
  | _ => cases hp

/-! ### Request frames -/

/-- A well-formed request frame is the sealed frame of a body of at most 245 bytes, whose fields are the instruction's (R94 to R97). -/
theorem encode_request {i : Instr} {tagged : Bool} (hp : i.port = .request tagged) (hw : i.wf = true) :
    ∃ hint opcode body, hint.isSome = tagged ∧ encode i = sealRequest hint opcode body ∧ body.length ≤ 245 ∧
      decodeBody hint opcode body = .ok i := by
  cases i with
  | write hint addr payload =>
    have hlen : payload.length ≤ 240 := by simpa [Instr.wf] using hw
    exact ⟨hint, _, _, Port.request.inj hp, rfl, by simp; omega, by simp [decodeBody, le32, s32le_bytes, hw]⟩
  | read hint addr size =>
    exact ⟨hint, _, _, Port.request.inj hp, rfl, by simp, by simp [decodeBody, le32, s32le_bytes, hw]⟩
  | writeFifoFrame hint fop addr payload =>
    have hlen : payload.length ≤ 240 := by
      simp only [Instr.wf, wfChunk, Config.chunkMax, Bool.and_eq_true, decide_eq_true_eq] at hw
      exact hw.2.2
    exact ⟨hint, _, _, Port.request.inj hp, rfl, by simp; omega, by simp [decodeBody, le32, s32le_bytes, hw]⟩
  | readFifoFrame hint fop addr size =>
    exact ⟨hint, _, _, Port.request.inj hp, rfl, by simp, by simp [decodeBody, le32, s32le_bytes, hw]⟩
  | _ => cases hp

theorem hint_length {hint : Option Byte} {tagged : Bool} (h : hint.isSome = tagged) :
    hint.toList.length = if tagged then 1 else 0 := by
  subst h
  cases hint <;> rfl

/-- The covered region of a sealed frame: its length byte counts the opcode and the body (R89, R90). -/
theorem sealRequest_parts {hint : Option Byte} {body : List Byte} (opcode : Byte) (hb : body.length ≤ 245) :
    let covered := BitVec.ofNat 8 (body.length + 1) :: opcode :: body
    let f := sealRequest hint opcode body
    (f.getD hint.toList.length 0).toNat = body.length + 1 ∧ (f.drop hint.toList.length).take (body.length + 2) = covered ∧
      f.getD (hint.toList.length + (body.length + 2)) 0 = crc8 covered := by
  have hbyte : (BitVec.ofNat 8 (body.length + 1)).toNat = body.length + 1 := by
    rw [BitVec.toNat_ofNat]; omega
  cases hint <;> simp [sealRequest, hbyte, Nat.add_comm 1]

/-! ### Acknowledgement frames -/

theorem decodeAckFrame_eq (len ack : Byte) (status : Word) {body : List Byte} (h : ([len, ack] ++ le32 status ++ body).length ≤ 248) :
    decodeAckFrame ([len, ack] ++ le32 status ++ body) = decodeAckBody len ack status body := by
  refine (if_pos h).trans ?_
  rw [← s32le_bytes status]
  simp only [le32_s32le]
  rfl

/-- The data bytes of a counted body stand between its count and its CRC (R101). -/
theorem decodeCounted_eq (len : Byte) (status : Word) {data rest : List Byte} (crc : Byte) (h : data.length ≤ 240) :
    decodeCounted len status (BitVec.ofNat 8 data.length :: data ++ crc :: rest) = .ok (.ackReadFifo len status data crc rest) := by
  simp [decodeCounted, toNat_count h]

/-- A well-formed acknowledgement is the ack byte and the status word before a body with the instruction's fields (R98 to R102). -/
theorem encode_ack {i : Instr} (hp : i.port = .ack) (hw : i.wf = true) :
    ∃ len ack status body, encode i = [len, ack] ++ le32 status ++ body ∧ decodeAckBody len ack status body = .ok i := by
  cases i with
  | ackWrite len status crc => exact ⟨len, 0x81, status, _, rfl, rfl⟩
  | ackRead len status data crc => exact ⟨len, 0x82, status, data ++ [crc], by simp [encode], by simp [decodeAckBody]⟩
  | ackWriteFifo len status crc => exact ⟨len, 0x84, status, _, rfl, rfl⟩
  | ackReadFifo len status data crc rest =>
    have hlen : data.length + rest.length + 8 ≤ 248 := by simpa [Instr.wf] using hw
    exact ⟨len, 0x88, status, BitVec.ofNat 8 data.length :: data ++ crc :: rest, by simp [encode],
      decodeCounted_eq len status crc (by omega)⟩
  | ackError len status rest => exact ⟨len, 0xC0, status, rest, rfl, rfl⟩
  | _ => cases hp

/-! ### The hint byte -/

/-- R92: the timeout in whole seconds, rounded up and cut at 255. -/
theorem hintOf_toNat (t : Word) : (hintOf t).toNat = min 255 ((t.toNat + 999) / 1000) := by
  rw [hintOf, BitVec.toNat_ofNat]; omega

/-! ## Accepted acknowledgements: what the buffer memory and the stream become -/

/-! ### The bytes stored -/

/-- A range read holds, byte by byte, what stands at the addresses of a range that does not wrap. -/
theorem bufBytes_getD {m : Memory} {a : Word} {n j : Nat} (hj : j < n) (hr : a.toNat + n ≤ 4294967296) :
    (bufBytes m a n).getD j 0 = memGet m (a.toNat + j) := by
  induction n generalizing a j with
  | zero => omega
  | succ n ih =>
    cases j with
    | zero => rfl
    | succ j =>
      have ha : (a + 1).toNat = a.toNat + 1 := toNat_add_ofNat a 1 (by omega)
      have htail := ih (a := a + 1) (j := j) (by omega) (by omega)
      rw [ha, Nat.add_assoc, Nat.add_comm 1] at htail
      exact htail

/-- A range write that does not wrap stores its bytes and no others (R64, R65). -/
theorem storedAt_memSetAll {m : Memory} {a : Word} {bs : List Byte} (hm : m.wf = true) (hr : a.toNat + bs.length ≤ 4294967296) :
    StoredAt m (memSetAll m a bs) a.toNat bs := by
  refine ⟨memSetAll_wf m a bs hm, fun j hj => ?_, fun b hb => memGet_memSetAll_outside m a bs b hm hr hb⟩
  rw [← bufBytes_getD hj hr, bufBytes_memSetAll m a bs hm hr]

/-- Only the platform's ranges decide what is backed (R62). -/
theorem rangeBacked_of_backed_eq {s t : State} {a : Word} {n : Nat} (hb : rangeBacked s a n = true) (h : t.backed = s.backed) :
    rangeBacked t a n = true := by
  induction n generalizing a with
  | zero => rfl
  | succ n ih =>
    simp only [rangeBacked, isBacked, Bool.and_eq_true, h] at hb ⊢
    obtain ⟨hfirst, hrest⟩ := hb
    exact ⟨hfirst, ih hrest⟩

/-! ### The register commands -/

/-- R306: the end of a command is that of the spec. -/
theorem finish_eq_ended (st : Word) (s : State) : finish st s = ended st s := rfl

/-- An `ACK_WRITE` that is accepted (R170). -/
theorem ackWrite_accepted {s : State} {len : Byte} {st : Word} (he : s.engine = .recvWait) (hack : s.expack = 0x81)
    (hrxn : s.rxn = 7) (hlen : len ≠ 0) (hst : 0 ≤ st.toInt) :
    exec (.ackWrite len st (crc8 ([len, 0x81] ++ le32 st))) s =
      ackAccept st (received ([len, 0x81] ++ le32 st ++ [crc8 ([len, 0x81] ++ le32 st)]) s) :=
  recvFrame_accepted (tail := []) (by rw [hack]; rfl) he hlen hst (by rw [hrxn]; rfl) (by omega) (by simp [covered, hack, hrxn])
    (by simp [hack])

/-- An accepted acknowledgement of a `WRITE_REGISTER` ends it (R197). -/
theorem ackAccept_writeRegister {s : State} (hc : s.q.code = 0x01) (st : Word) :
    ackAccept st s = .next (ended st { s with bytesDone := s.q.size }) := by
  rw [ackAccept_register (by rw [hc]; decide) (by rw [hc]; decide), regAccept, if_neg (by rw [hc]; decide),
    andThen_next, finish_eq_ended]

/-- An accepted acknowledgement of a `READ_REGISTER` writes its data, where it is backed, and ends it (R197). -/
theorem regAccept_backed {s : State} {st : Word} {data : List Byte} (hc : s.q.code = 0x02)
    (hdata : (s.rxbuf.drop 6).take s.q.size.toNat = data) (hb : rangeBacked s s.q.ptr data.length = true) :
    regAccept st s = .next (ended st { s with bufmem := memSetAll s.bufmem s.q.ptr data, bytesDone := s.q.size }) := by
  rw [regAccept, if_pos hc, hdata, writeBytes_backed _ _ _ hb, andThen_next, finish_eq_ended]

/-! ### The chunks of a stream -/

/-- The next chunk of a `WRITE_FIFO`, where its bytes are backed (R222). -/
theorem startChunk_write {s : State} (hc : s.q.code = 0x04) (hb : rangeBacked s (chunkAddr s) (pieceOf s.c.remaining) = true) :
    startChunk s = .next (writeChunkOpened s) := by
  have hoffset : payloadOffset s.q = payloadAt s.q := by
    rw [payloadOffset, payloadAt, hintLen]
    split <;> rfl
  rw [startChunk, if_pos hc, ← pieceOf_eq_chunkSize, readBytes_backed _ _ _ hb, writeChunkOpened, hoffset, andThen_next, overwrite,
    bufBytes_length]
  rfl

/-- The next chunk of a `READ_FIFO` (R222). -/
theorem startChunk_read {s : State} (hc : s.q.code = 0x08) : startChunk s = .next (readChunkOpened s) := by
  rw [startChunk, if_neg (by rw [hc]; decide), ← pieceOf_eq_chunkSize]
  rfl

/-- An accepted chunk is closed by the callback, where it is enabled (R233). -/
theorem closeChunk_callback {s : State} (hcb : s.q.cbEn = true) (st : Word) (a : Nat) :
    closeChunk st a s = .next { chunkAccepted st a s with chunkPending := true, engine := .cbWait } := by
  rw [closeChunk, if_pos hcb, advance_eq_chunkAccepted]

/-- Without a callback the stream ends with the status of a chunk that ends it (R236, R239). -/
theorem closeChunk_ends {s : State} {st : Word} {a : Nat} (hcb : s.q.cbEn = false) (hp : (chunkAccepted st a s).e.pending = true) :
    closeChunk st a s = .next (ended st (chunkAccepted st a s)) := by
  rw [closeChunk, if_neg (by simp [hcb]), advance_eq_chunkAccepted, continueStream, if_pos hp]
  rfl

/-- Without a callback and without an end the next chunk opens (R239). -/
theorem closeChunk_goesOn {s : State} {st : Word} {a : Nat} (hcb : s.q.cbEn = false) (hp : (chunkAccepted st a s).e.pending = false) :
    closeChunk st a s = startChunk (chunkAccepted st a s) := by
  rw [closeChunk, if_neg (by simp [hcb]), advance_eq_chunkAccepted, continueStream_goesOn hp]

/-- An accepted chunk of a `WRITE_FIFO` is closed as it is (R231). -/
theorem chunkOk_write {s : State} (hc : s.q.code = 0x04) (st : Word) (a : Nat) : chunkOk st a s = closeChunk st a s := by
  rw [chunkOk_goesOn (by simp [readStops, hc]), if_neg (by simp [hc]), andThen_next]

/-- The empty status or a count of 0 ends a `READ_FIFO` (R232). -/
theorem chunkOk_read_stops {s : State} {st : Word} {a : Nat} (hc : s.q.code = 0x08) (h : st = 1 ∨ a = 0) :
    chunkOk st a s = .next (ended 0 s) :=
  chunkOk_stops (by simpa [readStops, hc] using h)

/-- An accepted chunk of a `READ_FIFO` is closed after its bytes are written, where they are backed (R231, R234). -/
theorem chunkOk_read_goesOn {s : State} {st : Word} {data : List Byte} (hc : s.q.code = 0x08) (hst : st ≠ 1) (hne : data ≠ [])
    (hdata : (s.rxbuf.drop 7).take data.length = data) (hb : rangeBacked s (chunkAddr s) data.length = true) :
    chunkOk st data.length s = closeChunk st data.length { s with bufmem := memSetAll s.bufmem (chunkAddr s) data } := by
  rw [chunkOk_goesOn (by simpa [readStops, hne] using fun _ => hst), if_pos hc, hdata, writeBytes_backed _ _ _ hb, andThen_next]

end Sys2Proof.Machine

namespace Sys2Proof.Proofs

open Sys2Proof Sys2Proof.Machine Sys2Proof.Claims

/-! ## The statements about encodings (30_encoding.md) -/

/-- Settles O2, port by port: each encoding is a register block, a register word, a sealed frame or an acknowledgement, which decodes
to what it was made of. -/
theorem encodedInstructionDecodesToItself : Obligations.EncodedInstructionDecodesToItself := by
  unfold Obligations.EncodedInstructionDecodesToItself
  intro i hw
  cases hp : i.port with
  | cmd =>
    obtain ⟨code, req, he, hc⟩ := encode_command hp
    rw [he]
    exact decodeBlock_requestBlock code req i hc
  | control =>
    obtain ⟨w, he, hc⟩ := encode_control hp
    rw [he, decode_control, hc]
  | status =>
    obtain ⟨w, he, hc⟩ := encode_status hp
    rw [he, decode_status, hc]
  | request tagged =>
    obtain ⟨hint, opcode, body, rfl, he, hlen, hd⟩ := encode_request hp hw
    rw [he]
    exact (decodeRequest_seal hint opcode body (by omega)).trans hd
  | ack =>
    obtain ⟨len, ack, status, body, he, hd⟩ := encode_ack hp hw
    have hlen := ack_length_le i hp hw
    rw [he] at hlen ⊢
    exact (decodeAckFrame_eq len ack status hlen).trans hd

/-- Settles O3, by the inversion of the decoder at each of the three ports. -/
theorem decodedBytesAreTheEncoding : Obligations.DecodedBytesAreTheEncoding := by
  unfold Obligations.DecodedBytesAreTheEncoding
  intro p bs i hcontrol hstatus h
  cases p with
  | cmd => exact decodeBlock_inv bs i h
  | control => exact absurd rfl hcontrol
  | status => exact absurd rfl hstatus
  | request tagged => exact decodeRequest_inv tagged bs i h
  | ack => exact decodeAckFrame_inv bs i h

/-- Settles O5, from the parts of the sealed frame that a request is. -/
theorem requestFrameLengthAndCrc : Obligations.RequestFrameLengthAndCrc := by
  unfold Obligations.RequestFrameLengthAndCrc
  intro i tagged hw hp f h L
  obtain ⟨hint, opcode, body, hhint, he, hlen, -⟩ := encode_request hp hw
  obtain ⟨hL, hcovered, hcrc⟩ := sealRequest_parts (hint := hint) opcode hlen
  have hflen := sealRequest_length hint opcode body
  rw [← he, hint_length hhint] at hL hcovered hcrc hflen
  have hL' : L = body.length + 1 := hL
  have hf : f.length = h + body.length + 3 := hflen
  refine ⟨by omega, by omega, request_length_le hp hw, ?_⟩
  rw [hL', hcovered]
  exact hcrc

/-- Settles O6: `hintOf` is the minimum of 255 and the rounded-up quotient, of which both bounds are arithmetic. -/
theorem hintByteIsTheTimeoutInSeconds : Obligations.HintByteIsTheTimeoutInSeconds := by
  unfold Obligations.HintByteIsTheTimeoutInSeconds
  intro q
  have hv := hintOf_toNat q.T
  refine ⟨fun h => by simp [hintByte, h], fun h => ⟨hintOf q.T, by simp [hintByte, h], fun hT => ?_, fun hT => ?_⟩⟩
  · omega
  · exact BitVec.eq_of_toNat_eq (hv.trans (by simp; omega))

/-! ### The accepted acknowledgement frames -/

/-- Settles O44: the frame is accepted, and the acceptance of a `WRITE_REGISTER` is its end. -/
theorem ackWriteEndsTheWrite : Obligations.AckWriteEndsTheWrite := by
  unfold Obligations.AckWriteEndsTheWrite
  intro len st s he hc hrxn hack hlen hst f
  exact (ackWrite_accepted he hack hrxn hlen hst).trans (ackAccept_writeRegister (s := received f s) hc st)

/-- Settles O45: the frame is accepted, and the range write of its data is all that the acceptance does before the end. -/
theorem ackReadFillsTheBuffer : Obligations.AckReadFillsTheBuffer := by
  unfold Obligations.AckReadFillsTheBuffer
  intro len st data s he hc hack hrxn h248 hsize hlen hst hm hr hb f
  have hb' : rangeBacked (received f s) s.q.ptr data.length = true := rangeBacked_of_backed_eq hb rfl
  have hdata : ((received f s).rxbuf.drop 6).take s.q.size.toNat = data :=
    hsize ▸ received_slice ([len, 0x82] ++ le32 st) data [crc8 ([len, 0x82] ++ le32 st ++ data)] s
  refine ⟨memSetAll s.bufmem s.q.ptr data, storedAt_memSetAll hm hr, (ackRead_accepted he hack hrxn h248 hlen hst).trans ?_⟩
  exact (ackAccept_readRegister (s := received f s) hc st).trans (regAccept_backed (s := received f s) hc hdata hb')

/-- Settles O46: the whole chunk is accepted and closed in one of the three ways. -/
theorem ackWriteFifoAcceptsTheChunk : Obligations.AckWriteFifoAcceptsTheChunk := by
  unfold Obligations.AckWriteFifoAcceptsTheChunk
  intro len st s he hc hrxn hack _ hlen hst c u
  let v := received ([len, 0x84] ++ le32 st ++ [c]) s
  have hclose : exec (.ackWriteFifo len st c) s = closeChunk st s.k.size v :=
    (ackWriteFifo_accepted he hack hrxn hlen hst).trans
      ((ackAccept_writeFifo (s := v) hc st).trans (chunkOk_write (s := v) hc st s.k.size))
  rw [hclose]
  refine ⟨fun hcb => closeChunk_callback (s := v) hcb st s.k.size, fun hcb hp => closeChunk_ends (s := v) hcb hp, fun hcb hp hb => ?_⟩
  exact (closeChunk_goesOn (s := v) hcb hp).trans (startChunk_write (s := u) hc (rangeBacked_of_backed_eq hb rfl))

/-- Settles O47: the chunk stops the stream, or is accepted with its bytes written at the cursor and closed in one of the three ways. -/
theorem ackReadFifoAcceptsTheChunk : Obligations.AckReadFifoAcceptsTheChunk := by
  unfold Obligations.AckReadFifoAcceptsTheChunk
  intro len st data rest s he hc hack hrxn h248 hk _ hlen hst body v u
  have hframe : v = received (body ++ crc8 body :: rest) s := congrArg (received · s) (List.append_cons ..).symm
  have hcount : (byteAt v.rxbuf 6).toNat = data.length := toNat_count (by omega)
  have hrun : exec (.ackReadFifo len st data (crc8 body) rest) s = chunkOk st data.length v := by
    rw [← hcount, ← ackAccept_readFifo (s := v) hc st, hframe]
    exact ackReadFifo_accepted he hack hrxn h248 hk hlen hst
  rw [hrun]
  refine ⟨fun h => chunkOk_read_stops (s := v) hc (h.imp id List.length_eq_zero_iff.2), fun hst1 hne hm hr hb => ?_⟩
  have hdata : (v.rxbuf.drop 7).take data.length = data := by
    rw [hframe]
    exact received_slice ([len, 0x88] ++ le32 st ++ [BitVec.ofNat 8 data.length]) data (crc8 body :: rest) s
  have hb' : rangeBacked v (chunkAddr v) data.length = true := rangeBacked_of_backed_eq hb rfl
  let m := memSetAll s.bufmem (s.q.ptr + s.c.offset) data
  have hclose : chunkOk st data.length v = closeChunk st data.length { v with bufmem := m } :=
    chunkOk_read_goesOn (s := v) hc hst1 hne hdata hb'
  rw [hclose]
  refine ⟨m, storedAt_memSetAll hm hr, fun hcb => closeChunk_callback (s := { v with bufmem := m }) hcb st data.length,
    fun hcb hp => closeChunk_ends (s := { v with bufmem := m }) hcb hp, fun hcb hp => ?_⟩
  exact (closeChunk_goesOn (s := { v with bufmem := m }) hcb hp).trans (startChunk_read (s := { u with bufmem := m }) hc)

end Sys2Proof.Proofs

namespace Sys2Proof.Machine

/-! ## The CRC8 engine (40_crc8.md) -/

/-! ### Linearity (R128) -/

/-- The step without its condition on a mask: the shift, and `poly` where the bit shifted out is 1 (R121, R126). -/
theorem crcShift_eq (poly c : Byte) : crcShift poly c = c <<< 1 ^^^ (if c.msb then poly else 0) := by
  have hmask : c &&& 0x80 = if c.msb then 0x80 else 0 := BitVec.and_twoPow c 7
  rw [crcShift, hmask]
  cases c.msb <;> simp

/-- One step is linear, whatever the polynomial. -/
theorem crcShift_xor (poly a b : Byte) : crcShift poly (a ^^^ b) = crcShift poly a ^^^ crcShift poly b := by
  have hpoly : (if a.msb ^^ b.msb then poly else 0) = (if a.msb then poly else 0) ^^^ (if b.msb then poly else 0) := by
    cases a.msb <;> cases b.msb <;> simp
  rw [crcShift_eq, crcShift_eq, crcShift_eq, BitVec.msb_xor, BitVec.shiftLeft_xor_distrib, hpoly]
  ac_rfl

/-- Any number of steps is linear. -/
theorem crcShift_repeat_xor (poly : Byte) (n : Nat) (a b : Byte) :
    Nat.repeat (crcShift poly) n (a ^^^ b) = Nat.repeat (crcShift poly) n a ^^^ Nat.repeat (crcShift poly) n b := by
  induction n with
  | zero => rfl
  | succ n ih => exact (congrArg (crcShift poly) ih).trans (crcShift_xor poly _ _)

theorem crcTab_xor (a b : Byte) : crcTab (a ^^^ b) = crcTab a ^^^ crcTab b := crcShift_repeat_xor Config.poly 8 a b

@[simp] theorem crcTab_zero : crcTab 0 = 0 := rfl

/-! ### The low bits of the table entries (R129) -/

theorem shiftLeft_five_eq_zero_iff (x : Byte) : x <<< 5 = 0 ↔ x &&& 7 = 0 := by
  revert x
  decide +kernel

/-- A polynomial without its three low terms never sets the three low bits, so `n` steps only shift them. -/
theorem crcShift_repeat_shiftLeft_five {poly : Byte} (hpoly : poly <<< 5 = 0) (n : Nat) (c : Byte) :
    Nat.repeat (crcShift poly) n c <<< 5 = c <<< (5 + n) := by
  have hstep (x : Byte) : crcShift poly x <<< 5 = (x <<< 5) <<< 1 := by
    rw [crcShift_eq, BitVec.shiftLeft_xor_distrib, ← BitVec.shiftLeft_add, ← BitVec.shiftLeft_add]
    cases x.msb <;> simp [hpoly]
  induction n with
  | zero => rfl
  | succ n ih =>
    calc crcShift poly (Nat.repeat (crcShift poly) n c) <<< 5
      _ = (Nat.repeat (crcShift poly) n c <<< 5) <<< 1 := hstep _
      _ = c <<< (5 + (n + 1)) := by rw [ih, ← BitVec.shiftLeft_add, Nat.add_assoc]

/-- The eight steps of a table entry shift its low bits out. -/
@[simp] theorem crcTab_low_clear (i : Byte) : crcTab i &&& 7 = 0 := by
  rw [← shiftLeft_five_eq_zero_iff]
  exact (crcShift_repeat_shiftLeft_five (poly := Config.poly) (by decide) 8 i).trans (BitVec.shiftLeft_eq_zero (by decide))

/-! ### The zero entries, and where the table is one-to-one (R130) -/

/-- The bytes of zero entry are the multiples of x^5 + x^2 + x + 1 of degree below 8 (R130, R133). -/
theorem crcTab_eq_zero_iff (e : Byte) : crcTab e = 0 ↔ e ∈ [(0 : Byte), 0x27, 0x4E, 0x69, 0x9C, 0xBB, 0xD2, 0xF5] := by
  revert e
  decide +kernel

/-- Only 0 has both a zero entry and its three low bits clear. -/
theorem eq_zero_of_crcTab_eq_zero {e : Byte} (hlow : e &&& 7 = 0) (h : crcTab e = 0) : e = 0 := by
  have hall : ∀ z ∈ [(0 : Byte), 0x27, 0x4E, 0x69, 0x9C, 0xBB, 0xD2, 0xF5], z &&& 7 = 0 → z = 0 := by decide
  exact hall e ((crcTab_eq_zero_iff e).1 h) hlow

/-- Two entries are equal exactly when that of the difference is 0. -/
theorem crcTab_eq_iff (c d : Byte) : crcTab c = crcTab d ↔ crcTab (c ^^^ d) = 0 := by
  rw [crcTab_xor]
  exact BitVec.xor_eq_zero_iff.symm

/-- By linearity the table is one-to-one on the bytes with bits 2 to 0 clear. -/
theorem crcTab_inj_of_low_clear {c d : Byte} (hc : c &&& 7 = 0) (hd : d &&& 7 = 0) : crcTab c = crcTab d ↔ c = d := by
  refine ⟨fun h => ?_, congrArg crcTab⟩
  have hlow : (c ^^^ d) &&& 7 = 0 := by
    rw [← shiftLeft_five_eq_zero_iff] at hc hd ⊢
    simp [BitVec.shiftLeft_xor_distrib, hc, hd]
  exact BitVec.xor_eq_zero_iff.1 (eq_zero_of_crcTab_eq_zero hlow ((crcTab_eq_iff c d).1 h))

/-- A flipped bit never has a zero entry. -/
theorem crcTab_single_bit_ne_zero : ∀ j < 8, crcTab (1#8 <<< j) ≠ 0 := by decide

/-! ### The fold (R124, R125) -/

theorem crcCompute_cons (b : Byte) (bs : List Byte) (seed : Byte) : crcCompute (b :: bs) seed = crcCompute bs (crcTab (seed ^^^ b)) := rfl

theorem crcCompute_append (pre post : List Byte) (seed : Byte) :
    crcCompute (pre ++ post) seed = crcCompute post (crcCompute pre seed) := List.foldl_append

/-- Bytes that bring the register back to its value do so however often they are repeated. -/
theorem crcCompute_replicate_mul {m : Nat} {b r : Byte} (h : crcCompute (List.replicate m b) r = r) (n : Nat) :
    crcCompute (List.replicate (m * n) b) r = r := by
  induction n with
  | zero => rfl
  | succ n ih => rw [Nat.mul_succ, List.replicate_add, crcCompute_append, ih, h]

/-- Seven zero bytes bring the register 0x28 back, which two of them reach from the seed: `CRC8(240 zero bytes)` of R134. -/
theorem crc8_zeros : crc8 (List.replicate 240 0) = 0x28 := by
  have hreach : crcCompute (List.replicate 2 0) Config.seed = 0x28 := by decide
  have hback : crcCompute (List.replicate 7 0) 0x28 = 0x28 := by decide +kernel
  calc crc8 (List.replicate (2 + 7 * 34) 0)
    _ = crcCompute (List.replicate (7 * 34) 0) (crcCompute (List.replicate 2 0) Config.seed) := by
      rw [crc8, List.replicate_add, crcCompute_append]
    _ = 0x28 := by rw [hreach, crcCompute_replicate_mul hback]

/-- A fold from a register with bits 2 to 0 clear ends in one (R129). -/
theorem crcCompute_low_clear (bs : List Byte) {seed : Byte} (h : seed &&& 7 = 0) : crcCompute bs seed &&& 7 = 0 := by
  induction bs generalizing seed with
  | nil => exact h
  | cons b bs ih => exact ih (crcTab_low_clear (seed ^^^ b))

/-- The first byte clears bits 2 to 0 of the register for good (R129). -/
theorem crc8_cons_low_clear (b : Byte) (bs : List Byte) : crc8 (b :: bs) &&& 7 = 0 := crcCompute_low_clear bs (crcTab_low_clear _)

/-- The same bytes folded into two entries of the table keep a difference between them: an error is never lost again (R130). -/
theorem crcCompute_crcTab_inj (bs : List Byte) (c d : Byte) :
    crcCompute bs (crcTab c) = crcCompute bs (crcTab d) ↔ crcTab c = crcTab d := by
  induction bs generalizing c d with
  | nil => rfl
  | cons b bs ih =>
    rw [crcCompute_cons, crcCompute_cons, ih, crcTab_xor, crcTab_xor, BitVec.xor_left_inj]
    exact crcTab_inj_of_low_clear (crcTab_low_clear c) (crcTab_low_clear d)

/-- An error in one covered byte goes unseen exactly when its table entry is 0 (R130). -/
theorem crc8_error_undetected_iff (pre post : List Byte) (b e : Byte) :
    crc8 (pre ++ (b ^^^ e) :: post) = crc8 (pre ++ b :: post) ↔ crcTab e = 0 := by
  have hdiff (r : Byte) : (r ^^^ (b ^^^ e)) ^^^ (r ^^^ b) = e := by
    rw [← BitVec.xor_assoc r b e, BitVec.xor_comm (r ^^^ b) e, BitVec.xor_assoc, BitVec.xor_self, BitVec.xor_zero]
  rw [crc8, crc8, crcCompute_append, crcCompute_append, crcCompute_cons, crcCompute_cons, crcCompute_crcTab_inj, crcTab_eq_iff, hdiff]

end Sys2Proof.Machine

namespace Sys2Proof.Proofs

open Sys2Proof Sys2Proof.Machine Sys2Proof.Claims

/-! ## The statements about the CRC8 (40_crc8.md) -/

/-- Settles O7, by evaluating both tables and the worked values. -/
theorem crcTableAndWorkedValues : Obligations.CrcTableAndWorkedValues := by
  unfold Obligations.CrcTableAndWorkedValues
  intro rows
  have hpopulate : populate 0x38 = rows := by decide +kernel
  have htable : (List.range 256).map (fun j => crcTab (BitVec.ofNat 8 j)) = rows := by decide +kernel
  have hzeros : (List.range 256).filter (fun j => crcTab (BitVec.ofNat 8 j) = 0) =
      [0x00, 0x27, 0x4E, 0x69, 0x9C, 0xBB, 0xD2, 0xF5] := by decide +kernel
  refine ⟨hpopulate, htable, hzeros, ?_, ?_, ?_, ?_, ?_, ?_, crc8_zeros, ?_, ?_⟩ <;> decide +kernel

/-- Settles O8: each step of a table entry is linear, and the eight steps shift bits 2 to 0 out. -/
theorem crcTableIsLinear : Obligations.CrcTableIsLinear := by
  unfold Obligations.CrcTableIsLinear
  refine ⟨crcTab_xor, crcTab_zero, crc8_cons_low_clear, fun b c bs hc h => hc ?_⟩
  rw [← h]
  exact crc8_cons_low_clear b bs

/-- Settles O9: the bytes behind an error keep the difference it makes, so its own table entry alone decides whether it is seen. -/
theorem crcDetectsSingleBitErrors : Obligations.CrcDetectsSingleBitErrors := by
  unfold Obligations.CrcDetectsSingleBitErrors
  refine ⟨crc8_error_undetected_iff, fun e he => ?_, fun pre post b j hj h => ?_, fun bs c e hc he h => he ?_,
    crc8_cons_low_clear, fun c d hc hd => (crcTab_inj_of_low_clear hc hd).1⟩
  · rw [crcTab_eq_zero_iff, List.mem_cons, or_iff_right he]
  · exact crcTab_single_bit_ne_zero j hj ((crc8_error_undetected_iff pre post b _).1 h)
  · exact (BitVec.xor_right_inj c).1 ((h.symm.trans hc).trans BitVec.xor_zero.symm)

end Sys2Proof.Proofs

namespace Sys2Proof.Machine

open Claims

/-! ## Transport requests (41_transport.md) -/

/-! ### Sending a frame -/

/-- A sealed frame is the frame R160 spells out, its length byte counting the opcode and the body (R89). -/
theorem sealRequest_eq_frameOf (hint : Option Byte) (opcode : Byte) (body : List Byte) :
    sealRequest hint opcode body = frameOf hint (BitVec.ofNat 8 (body.length + 1) :: opcode :: body) := rfl

/-- In SEND a frame is put into the send buffer and becomes the outstanding send (R141, R193, R225). -/
theorem sendFrame_of_send {f : List Byte} {s : State} (he : s.engine = .send) :
    sendFrame f s = .next { s with
      txbuf := f ++ s.txbuf.drop f.length, txlen := f.length, outstanding := some (.send f f.length s.q.T), engine := .sendWait } := by
  have hbuf : overwrite s.txbuf 0 f = f ++ s.txbuf.drop f.length := by simp [overwrite]
  rw [sendFrame, if_pos he, issueSend, txFrame_loadFrame, loadFrame, hbuf]

/-! ### A failed await-ack attempt -/

/-- R262, R264: a phase record is charged as the spec says. -/
theorem chargePhase_eq_afterFailure (now T : Word) (ph : Phase) : chargePhase now T ph = afterFailure now T ph := by
  have helapsed : T < now - ph.t0 ↔ T.toNat < (now.toNat + 4294967296 - ph.t0.toNat) % 4294967296 := by
    rw [BitVec.lt_def, BitVec.toNat_sub]
    omega
  unfold chargePhase afterFailure
  cases ph.armed <;> simp [helapsed]

theorem phaseOver_iff (R : Word) (ph : Phase) : phaseOver R ph = true ↔ R.toNat ≤ ph.slots.toNat := decide_eq_true_iff

/-- A charged failure ends the command or goes back, as the budget says (R195, R196, R198). -/
theorem retryOrFinish_eq (ph : Phase) (back : EngineState) (s : State) : retryOrFinish ph back s =
    if s.q.R.toNat ≤ ph.slots.toNat then ended (exhaustedResult s) s else { s with engine := back } := by
  simp only [retryOrFinish, phaseOver_iff]
  rfl

/-- A failed await-ack attempt is the one the spec spells out (R196, R198, R227, R229). -/
theorem ackFailure_eq_ackFailed (s : State) : ackFailure s = ackFailed s := by
  have hstream : isStream s = isFifo s.q.code := rfl
  rcases ackFailure_cases s with ⟨hn, h⟩ | ⟨hn, hf, h⟩ | ⟨hn, hf, h⟩ <;> rw [h, ackFailed, hn]
  · rfl
  · rw [retryOrFinish_eq, chargePhase_eq_afterFailure, hstream, hf, Bool.or_true]
    rfl
  · rw [retryOrFinish_eq, chargePhase_eq_afterFailure, hstream, hf, Bool.or_false]
    rfl

/-! ### The outcome of an attempt that is not accepted -/

theorem decodeAck_of_count {r : Word} {s : State} (hr : r.toInt ≠ s.rxn) : decodeAck r s = .tfail := if_pos hr

/-- A full count whose bytes fail a check is a framing failure (R173, R176). -/
theorem decodeAck_of_not_passes {r : Word} {s : State} (hr : r.toInt = s.rxn) (h : ¬ Passes s s.rxbuf) : decodeAck r s = .ffail := by
  rw [decodeAck, if_neg (not_not.2 hr)]
  by_cases hcount : s.expack = 0x88 → (byteAt s.rxbuf 6).toNat ≤ s.k.size
  · rw [coveredLength_of_passes hcount]
    simp only
    split
    · rfl
    rename_i hlen
    split
    · rfl
    rename_i hcrc
    split
    · rfl
    rename_i hack
    exact absurd ⟨hcount, hlen, not_not.1 hcrc, not_not.1 hack⟩ h
  · obtain ⟨hexpack, hbeyond⟩ := Classical.not_imp.1 hcount
    rw [coveredLength, if_pos hexpack]
    simp only [if_pos (Nat.lt_of_not_le hbeyond)]

/-- A frame that passes the checks with a negative status is a device error (R177). -/
theorem decodeAck_of_negative {r : Word} {s : State} (hr : r.toInt = s.rxn) (h : Passes s s.rxbuf)
    (hst : (statusOfFrame s.rxbuf).toInt < 0) : decodeAck r s = .devErr (statusOfFrame s.rxbuf) := by
  obtain ⟨hcount, hlen, hcrc, hack⟩ := h
  have hmsb : (ackStatus s.rxbuf).msb = true := by
    rw [BitVec.msb_eq_toInt, decide_eq_true_eq]
    exact hst
  rw [decodeAck, if_neg (not_not.2 hr), coveredLength_of_passes hcount]
  exact (if_neg hlen).trans ((if_neg (not_not.2 hcrc)).trans ((if_neg (not_not.2 hack)).trans (if_pos hmsb)))

/-- An answer with another count than was asked for is a failed attempt, and its bytes are not looked at (R142 to R144). -/
theorem recvResponse_of_count {r : Word} {d : List Byte} {s : State} (he : s.engine = .recvWait) (hr : r.toInt ≠ s.rxn) :
    recvResponse r d s = .next (ackFailed { s with outstanding := none }) := by
  have htaken : takeResponse r d s = { s with outstanding := none } := by rw [takeResponse, if_neg hr]
  rw [recvResponse, if_pos he, if_neg fun h => hr h.1, htaken, decodeAck_of_count (by exact hr), onAck, ackFailure_eq_ackFailed]

/-- A full count is decoded in the state that received it (R142, R196, R228). -/
theorem recvResponse_full {r : Word} {d : List Byte} {s : State} (he : s.engine = .recvWait) (hr : r.toInt = s.rxn)
    (hd : d.length = s.rxn) : recvResponse r d s = onAck (decodeAck r (received d s)) (received d s) := by
  rw [recvResponse, if_pos he, if_neg fun h => h.2 hd, takeResponse_eq_received hr]

/-- Received bytes that fail a check are a failed attempt (R143, R176). -/
theorem recvResponse_of_not_passes {r : Word} {d : List Byte} {s : State} (he : s.engine = .recvWait) (hr : r.toInt = s.rxn)
    (hd : d.length = s.rxn) (h : ¬ Passes (received d s) (received d s).rxbuf) :
    recvResponse r d s = .next (ackFailed (received d s)) := by
  rw [recvResponse_full he hr hd, decodeAck_of_not_passes (s := received d s) hr h, onAck, ackFailure_eq_ackFailed]

/-- A passing frame with a negative status is a failed attempt, and its status is the last one (R177, R198). -/
theorem recvResponse_of_negative {r : Word} {d : List Byte} {s : State} (he : s.engine = .recvWait) (hr : r.toInt = s.rxn)
    (hd : d.length = s.rxn) (h : Passes (received d s) (received d s).rxbuf)
    (hst : (statusOfFrame (received d s).rxbuf).toInt < 0) :
    recvResponse r d s =
      .next (ackFailed { received d s with ls := { valid := true, value := statusOfFrame (received d s).rxbuf } }) := by
  rw [recvResponse_full he hr hd, decodeAck_of_negative (s := received d s) hr h hst, onAck, ackFailure_eq_ackFailed]

/-- An answer of the transport runs as the response it is, whether or not its bytes are a frame of the table (R140, R312). -/
theorem step_response {s : State} {r : Word} {d : List Byte} (hm : nextMove s = .response r d) :
    step s = response r d (popMove s) := by
  have took := step_took s
  generalize step s = o at took ⊢
  cases took with
  | response r' d' hm' =>
    obtain ⟨rfl, rfl⟩ := Move.response.inj (hm.symm.trans hm')
    rfl
  -- every other row takes another move
  | _ => simp_all

/-- In RECV_WAIT an answer of the transport is the answer to the receive (R142). -/
theorem step_response_of_recvWait {s : State} {r : Word} {d : List Byte} (hm : nextMove s = .response r d)
    (he : s.engine = .recvWait) : step s = recvResponse r d (popMove s) := by
  rw [step_response hm, response, popMove_engine, he]

/-! ### What a step does with the outstanding request -/

theorem startChunk_outstanding {s t : State} (h : startChunk s = .next t) : t.outstanding = s.outstanding := by
  rcases startChunk_next s t h with ⟨-, rfl⟩ | ⟨-, rfl⟩ <;> rfl

theorem startStream_outstanding {s t : State} (h : startStream s = .next t) : t.outstanding = s.outstanding := by
  rcases startStream_next s t h with ⟨-, rfl⟩ | ⟨-, h⟩
  · rfl
  · exact (startChunk_outstanding h).trans rfl

theorem continueStream_outstanding {abort : Bool} {s t : State} (h : continueStream abort s = .next t) :
    t.outstanding = s.outstanding := by
  rcases continueStream_next abort s t h with ⟨-, rfl⟩ | ⟨-, -, rfl⟩ | ⟨-, -, h⟩
  · rfl
  · rfl
  · exact startChunk_outstanding h

theorem callbackReturn_outstanding {abort : Bool} {s t : State} (h : callbackReturn abort s = .next t) :
    t.outstanding = s.outstanding := by
  rcases callbackReturn_next abort s t h with ⟨-, h⟩ | ⟨-, rfl⟩
  · exact (continueStream_outstanding h).trans rfl
  · rfl

theorem chunkOk_outstanding {st : Word} {a : Nat} {s t : State} (h : chunkOk st a s = .next t) : t.outstanding = s.outstanding := by
  rcases chunkOk_next st a s t h with ⟨-, rfl⟩ | ⟨-, m, -, ⟨-, rfl⟩ | ⟨-, h⟩⟩
  · rfl
  · rfl
  · exact (continueStream_outstanding h).trans rfl

theorem ackAccept_outstanding {st : Word} {s t : State} (h : ackAccept st s = .next t) : t.outstanding = s.outstanding := by
  rcases ackAccept_next st s t h with ⟨-, h⟩ | ⟨-, h⟩ | ⟨-, -, h⟩
  · exact chunkOk_outstanding h
  · exact chunkOk_outstanding h
  · rcases regAccept_next st s t h with ⟨-, rfl⟩ | ⟨-, rfl⟩ <;> rfl

@[simp] theorem retryOrFinish_outstanding (ph : Phase) (back : EngineState) (s : State) :
    (retryOrFinish ph back s).outstanding = s.outstanding := by
  rcases retryOrFinish_cases ph back s with ⟨-, h⟩ | ⟨-, h⟩ <;> rw [h]
  rfl

@[simp] theorem sendFailure_outstanding (s : State) : (sendFailure s).outstanding = s.outstanding := by
  rcases sendFailure_cases s with ⟨-, h⟩ | ⟨-, -, h⟩ | ⟨-, -, h⟩ <;> simp [h]

@[simp] theorem ackFailure_outstanding (s : State) : (ackFailure s).outstanding = s.outstanding := by
  rcases ackFailure_cases s with ⟨-, h⟩ | ⟨-, -, h⟩ | ⟨-, -, h⟩ <;> simp [h]

/-- An answer of the transport leaves no request outstanding, where one of the three wait states takes it (R146). -/
theorem response_outstanding {r : Word} {d : List Byte} {s t : State} (h : response r d s = .next t) :
    t.outstanding = none ∨ t.outstanding = s.outstanding := by
  rcases response_next h with ⟨-, rfl⟩ | ⟨-, h⟩ | ⟨-, rfl⟩ | rfl
  · rcases sendResponse_cases r s with ⟨-, h⟩ | ⟨-, h⟩ <;> simp [h]
  · rcases recvResponse_next r d s t h with ⟨-, rfl⟩ | ⟨-, -, -, st, -, h⟩ | ⟨-, -, ls, rfl, -⟩
    · exact .inr rfl
    · exact .inl (ackAccept_outstanding h)
    · exact .inl (ackFailure_outstanding _)
  · exact .inl rfl
  · exact .inr rfl

@[simp] theorem writeReg_outstanding (offset : Nat) (v : Word) (s : State) : (writeReg offset v s).outstanding = s.outstanding := by
  obtain ⟨_, _, _, h, -⟩ := writeReg_eq offset v s
  rw [h]

/-- Of the commands a GO starts, only `SET_CHANNEL_TIMEOUT` issues a request at once (R146, R289). -/
theorem Dispatched.outstanding {code : Byte} {req : Request} {u t : State} (h : Dispatched code req u t) :
    code = 0x10 ∨ t.outstanding = u.outstanding := by
  cases h with
  | refused ht => exact .inr (ht ▸ rfl)
  | writeRegister _ _ _ ht =>
    obtain ⟨bs, -, ht⟩ := andThen_eq_next ht
    exact .inr (Host.Outcome.next.inj ht ▸ rfl)
  | readRegister _ _ _ ht => exact .inr (Host.Outcome.next.inj ht ▸ rfl)
  | stream _ _ ht => exact .inr (startStream_outstanding ht)
  | setTimeout hc _ => exact .inl hc

/-- What one step can do with the outstanding request (R146). -/
inductive RequestEffect (s t : State) : Prop where
  /-- No agent or operation touches it. -/
  | kept (h : t.outstanding = s.outstanding)
  /-- Its answer is taken, or a reset abandons it (R342). -/
  | cleared (h : t.outstanding = none)
  /-- The engine's turn issues a send or a receive. -/
  | turn (he : s.engine = .send ∨ s.engine = .recv)
  /-- The GO of a `SET_CHANNEL_TIMEOUT` issues its request. -/
  | setTimeout (hb : s.busy = false) (hc : s.cmd = 0x10) (w : Word) (hm : nextMove s = .hostWrite 32 0x1C w) (hw : w.getLsbD 0 = true)

/-- Every step that answers a next state has one of these effects. -/
theorem step_requestEffect {s t : State} (h : step s = .next t) : RequestEffect s t := by
  have took := step_took s
  generalize step s = o at h took
  have kept {u : State} (h : (.next u : Res State) = .next t) (hu : u.outstanding = s.outstanding) : RequestEffect s t := by
    obtain rfl := Host.Outcome.next.inj h
    exact .kept hu
  cases took with
  | control w i hm hd =>
    rcases execControl_next hd h with rfl | ⟨abort, hk⟩ | ⟨hb, hw, hk⟩
    · exact .kept rfl
    · exact .kept ((callbackReturn_outstanding hk).trans rfl)
    · rcases hk.outstanding with hc | hk
      · exact .setTimeout hb hc w hm hw
      · exact .kept hk
  | status w hm hd => exact kept h rfl
  | hostWrite width offset v hm ha => exact kept h (writeReg_outstanding offset v _)
  | send i hm he hi hp => exact .turn (.inl he)
  | engine hm hi =>
    rcases engineTurn_cases (popMove s) with ⟨he, -⟩ | ⟨he, -⟩ | ht
    · exact .turn (.inl he)
    · exact .turn (.inr he)
    · exact kept h (by rw [ht, popMove_outstanding])
  | hostRead width offset hm ha => exact kept h rfl
  | response r d hm =>
    rcases response_outstanding h with hn | hk
    · exact .cleared hn
    · exact .kept hk
  | lateResponse r d hm => exact kept h rfl
  | time ms hm => exact kept h rfl
  | bufStore a v hm =>
    obtain ⟨-, -, rfl⟩ := hostStore_next a v _ _ h
    exact .kept rfl
  | bufLoad a hm =>
    obtain ⟨-, v, n, rfl⟩ := hostLoad_next a _ _ h
    exact .kept rfl
  | rst hm => exact .cleared (Host.Outcome.next.inj h ▸ rfl)
  | notAdmitted => cases h

end Sys2Proof.Machine

namespace Sys2Proof.Proofs

open Sys2Proof Sys2Proof.Machine Sys2Proof.Claims

/-! ## The statements about the transport (41_transport.md) -/

/-- Settles O37: each of the four frames runs as the send of its sealed frame, which the length of its body spells out. -/
theorem requestFrameIsLaidOutAndSent : Obligations.RequestFrameIsLaidOutAndSent := by
  unfold Obligations.RequestFrameIsLaidOutAndSent
  intro s he sent
  have sealed {hint : Option Byte} {opcode : Byte} {body : List Byte} (n : Nat) (hn : body.length + 1 = n) :
      sendFrame (sealRequest hint opcode body) s = .next (sent (frameOf hint (BitVec.ofNat 8 n :: opcode :: body))) := by
    rw [sealRequest_eq_frameOf, hn]
    exact sendFrame_of_send he
  refine ⟨fun hint addr payload => ?_, fun hint addr size => ?_, fun hint fop addr payload => ?_, fun hint fop addr size => ?_⟩
  · exact sealed (5 + payload.length) (by simp; omega)
  · exact sealed 6 rfl
  · exact sealed (6 + payload.length) (by simp; omega)
  · exact sealed 7 rfl

/-- Settles O49: an acknowledgement runs as the answer that brings its bytes, and each way of not being accepted is a failed attempt. -/
theorem rejectedAckIsAFailedAttempt : Obligations.RejectedAckIsAFailedAttempt := by
  unfold Obligations.RejectedAckIsAFailedAttempt
  intro i s hp hw he v
  have hlen := toInt_ofNat_len _ (ack_length_le i hp hw)
  rw [exec_ack i s hp]
  refine ⟨fun hne => ?_, fun heq hnot => ?_, fun heq hpass hneg => ?_⟩
  · exact recvResponse_of_count he (by rw [hlen]; exact_mod_cast hne)
  · exact recvResponse_of_not_passes he (by rw [hlen, heq]) heq hnot
  · exact recvResponse_of_negative he (by rw [hlen, heq]) heq hpass hneg

/-- Settles O50: the step takes the answer, which fails by its count or by its bytes. -/
theorem failedReceiveIsAFailedAttempt : Obligations.FailedReceiveIsAFailedAttempt := by
  unfold Obligations.FailedReceiveIsAFailedAttempt
  intro r d s hm he
  rw [step_response_of_recvWait hm he]
  exact ⟨recvResponse_of_count (s := popMove s) he, fun hr hd hnot => recvResponse_of_not_passes (s := popMove s) he hr hd hnot⟩

/-- Settles O58: a request is issued only in SEND, in RECV or by the GO of a `SET_CHANNEL_TIMEOUT`, and in none of these states does the
invariant leave one outstanding. -/
theorem oneTransportRequestAtATime : Obligations.OneTransportRequestAtATime := by
  unfold Obligations.OneTransportRequestAtATime
  intro s t hinv h
  cases step_requestEffect h with
  | kept hk => exact ⟨fun _ => .inl hk, fun hn hne => absurd (hk.trans hn) hne⟩
  | cleared hc => exact ⟨fun _ => .inr hc, fun _ hne => absurd hc hne⟩
  | turn he =>
    have hn : s.outstanding = none := (hinv.exchanging_turn he).outstanding
    exact ⟨fun hne => absurd hn hne, fun _ _ => he.imp_right .inl⟩
  | setTimeout hb hc w hm hw =>
    have he := hinv.engine_of_not_busy hb
    have hn : s.outstanding = none := by rw [hinv.request, outstandingFor, he]
    exact ⟨fun hne => absurd hn hne, fun _ _ => .inr (.inr ⟨he, hc, w, hm, hw⟩)⟩

/-- Settles O38: a request frame runs as a send and an acknowledgement as an answer, and both look at the engine state first. -/
theorem framesOutsideTheirStates : Obligations.FramesOutsideTheirStates := by
  unfold Obligations.FramesOutsideTheirStates
  refine ⟨fun i tagged s hp he => ?_, fun i s hp he => ?_⟩
  · rw [exec_request i tagged s hp, sendFrame, if_neg he]
  · rw [exec_ack i s hp, recvResponse, if_neg he]

end Sys2Proof.Proofs

namespace Sys2Proof.Machine

open Claims

/-! ## The ack byte check (42_frame_codec.md) -/

/-- A frame whose ack byte is not the expected one fails check (c) (R176). -/
theorem not_passes_of_ackByte {s : State} {f : List Byte} {ack : Byte} (hack : f.getD 1 0 = ack) (hne : s.expack ≠ ack) :
    ¬ Passes s f :=
  fun ⟨_, _, _, h⟩ => hne (h.symm.trans hack)

end Sys2Proof.Machine

namespace Sys2Proof.Proofs

open Sys2Proof Sys2Proof.Machine Sys2Proof.Claims

/-! ## The statements about the frame codec (42_frame_codec.md) -/

/-- Settles O43: the count, then the checks, then the sign of the status leave four cases, and each fixes the outcome. -/
theorem ackOutcomeFollowsTheChecks : Obligations.AckOutcomeFollowsTheChecks := by
  unfold Obligations.AckOutcomeFollowsTheChecks
  intro r s
  by_cases hr : r.toInt = s.rxn
  case neg => simp [decodeAck_of_count hr, hr]
  by_cases hpass : Passes s s.rxbuf
  case neg => simp [decodeAck_of_not_passes hr hpass, hr, hpass]
  rcases lt_or_ge (statusOfFrame s.rxbuf).toInt 0 with hst | hst
  · simp [decodeAck_of_negative hr hpass hst, hr, hpass, hst]
  · simp [decodeAck_of_passes hr hpass hst, hr, hpass, hst]

/-- Settles O48: 0xC0 fails check (c), so the frame is a failed attempt before its status is looked at. -/
theorem ackErrorIsNeverAccepted : Obligations.AckErrorIsNeverAccepted := by
  unfold Obligations.AckErrorIsNeverAccepted
  refine ⟨fun r s hne hack hr => ?_, fun len st rest s he hne h248 hrxn => ?_⟩
  · exact decodeAck_of_not_passes hr (not_passes_of_ackByte hack hne)
  · have hwf : (Instr.ackError len st rest).wf = true := decide_eq_true (hrxn ▸ h248)
    have hlen : (encode (.ackError len st rest)).length = s.rxn := by simp [encode, le32, hrxn]
    obtain ⟨-, hrejected, -⟩ := rejectedAckIsAFailedAttempt (.ackError len st rest) s rfl hwf he
    exact hrejected hlen (not_passes_of_ackByte rfl hne)

/-- Settles O1: the decoder run on the worked bytes, the CRC of each request frame with it. -/
theorem decodesTheSpecsWorkedWords : Obligations.DecodesTheSpecsWorkedWords := by
  unfold Obligations.DecodesTheSpecsWorkedWords
  decide +kernel

end Sys2Proof.Proofs

namespace Sys2Proof.Machine

open Claims

/-! ## Register operations (43_register_ops.md) -/

/-! ### Request frames as the spec lays them out -/

/-- The length byte of a `WRITE` counts the opcode, the address and the payload (R89, R94). -/
theorem encode_write_eq_frameOf (hint : Option Byte) (addr : Word) (payload : List Byte) : encode (.write hint addr payload) =
    frameOf hint ([BitVec.ofNat 8 (5 + payload.length), 0x01] ++ le32 addr ++ payload) := by
  have hlen : (le32 addr ++ payload).length + 1 = 5 + payload.length := by simp; omega
  rw [encode, sealRequest_eq_frameOf, hlen]
  rfl

/-- The length byte of a `READ` is 6 (R95). -/
theorem encode_read_eq_frameOf (hint : Option Byte) (addr : Word) (size : Byte) :
    encode (.read hint addr size) = frameOf hint ([6, 0x02] ++ le32 addr ++ [size]) := rfl

/-! ### The start of an exchange -/

theorem acceptGo_eq_accepted (code : Byte) (req : Request) (s : State) : acceptGo code req s = accepted code req s := by
  rw [acceptGo, Proofs.latch_eq_latched, accepted]

/-- R192: the exchange of a register command opens behind its frame, which stands at the start of the send buffer. -/
theorem startExchange_loadFrame (rxn : Nat) (expack : Byte) (f : List Byte) (s : State) : startExchange rxn expack (loadFrame f s) =
    exchangeOpened rxn expack { s with txbuf := f ++ s.txbuf.drop f.length, txlen := f.length } := by
  have hbuf : overwrite s.txbuf 0 f = f ++ s.txbuf.drop f.length := by simp [overwrite]
  rw [loadFrame, hbuf]
  rfl

/-- A register command that keeps the caller's contract passes checks 2 to 4 (R283, R284). -/
theorem registerChecks_of_not_violates {code : Byte} {req : Request} (hc : code = 0x01 ∨ code = 0x02) (h : ¬ Violates code req) :
    (badBuffer req || oversized req) = false := by
  have hdata : code ≠ 0x10 := by rcases hc with rfl | rfl <;> decide
  rw [badBuffer_of_not_violates hdata h, oversized_of_not_violates hc h]
  rfl

/-- A register command that keeps the caller's contract starts from the accepted state (R281, R286). -/
theorem runCommand_register {code : Byte} {req : Request} {start : State → Res State} {s : State} (hc : code = 0x01 ∨ code = 0x02)
    (hb : s.busy = false) (hv : ¬ Violates code req) :
    runCommand code req (badBuffer req || oversized req) start s = start (accepted code req s) := by
  rw [runCommand_starts hb (registerChecks_of_not_violates hc hv), acceptGo_eq_accepted]

/-- R190: a `WRITE_REGISTER` whose buffer is backed starts with the bytes it read. -/
theorem startWriteRegister_backed {s : State} (hb : rangeBacked s s.q.ptr s.q.size.toNat = true) : startWriteRegister s =
    .next (startExchange 7 0x81 (loadFrame (encode (.write (hintByte s.q) s.q.addr (bufBytes s.bufmem s.q.ptr s.q.size.toNat))) s)) := by
  rw [startWriteRegister, readBytes_backed _ _ _ hb, andThen_next]

/-! ### The send attempts -/

/-- The frame that stands in the send buffer is left as it is when it is loaded again (R193). -/
theorem loadFrame_txFrame {s : State} (h : s.txlen ≤ s.txbuf.length) : loadFrame (txFrame s) s = s := by
  have hlen : (txFrame s).length = s.txlen := List.length_take_of_le h
  have hbuf : overwrite s.txbuf 0 (txFrame s) = s.txbuf := by
    rw [overwrite, hlen, Nat.zero_add]
    exact List.take_append_drop s.txlen s.txbuf
  rw [loadFrame, hbuf, hlen]

/-- The engine's turn where it sends no frame of the table (R354). -/
theorem step_engineTurn {s : State} (hm : nextMove s = .engine) (hi : s.engine = .send → sendInstr s = none) :
    step s = .next (engineTurn (popMove s)) := by
  have hf : fetch s = none := by simpa [fetch, hm] using hi
  rw [step, hf, hm]
  rfl

/-- The engine's turn in SEND sends the frame it has (R193, R225). -/
theorem step_sendFrame {s : State} {i : Instr} (hm : nextMove s = .engine) (he : s.engine = .send) (hi : sendInstr s = some i) :
    step s = sendFrame (encode i) (popMove s) := by
  have hf : fetch s = some i := by simpa [fetch, hm, he] using hi
  rw [step, hf]
  exact exec_request i _ _ (sendInstr_port s i hi)

/-- Whether or not the send buffer decodes as a frame of the table, a register command sends what stands there (R193). -/
theorem Inv.step_send_register {s : State} (h : Inv s) (hm : nextMove s = .engine) (he : s.engine = .send)
    (hf : isFifo s.q.code = false) : step s = .next (issueSend (popMove s)) := by
  cases hi : sendInstr s with
  | none => rw [step_engineTurn hm fun _ => hi, engineTurn, popMove_engine, he]
  | some i =>
    obtain ⟨-, hframe⟩ := (h.exchanging_turn (.inl he)).sendInstr_ok hi
    have hfits : s.txlen ≤ s.txbuf.length := h.bounds.txbuf ▸ h.bounds.txlen
    have hload : loadFrame (encode i) (popMove s) = popMove s := by
      rw [hframe hf]
      exact loadFrame_txFrame (s := popMove s) hfits
    rw [step_sendFrame hm he hi, sendFrame, popMove_engine, if_pos he, hload]

/-- A register command keeps its exchange while it sends (R190 to R193). -/
theorem Inv.exchangeOk {s : State} (h : Inv s) (he : s.engine = .send) (hf : isFifo s.q.code = false) : ExchangeOk s := by
  obtain ⟨-, hx | hx⟩ := (h.exchanging_turn (.inl he)).data
  · exact hx
  · rcases hx.code with hc | hc <;> rw [hc] at hf <;> cases hf

/-! ### The answer to a send -/

/-- A failed send attempt is the one the spec spells out (R195, R198, R227). -/
theorem sendFailure_eq_sendFailed (s : State) : sendFailure s = sendFailed s := by
  have hstream : isStream s = isFifo s.q.code := rfl
  rcases sendFailure_cases s with ⟨hn, h⟩ | ⟨hn, hf, h⟩ | ⟨hn, hf, h⟩ <;> rw [h, sendFailed, hn]
  · rfl
  · rw [retryOrFinish_eq, chargePhase_eq_afterFailure, hstream, hf, Bool.or_true]
    rfl
  · rw [retryOrFinish_eq, chargePhase_eq_afterFailure, hstream, hf, Bool.or_false]
    rfl

/-- In SEND_WAIT an answer of the transport is the answer to the send (R141). -/
theorem step_response_of_sendWait {s : State} {r : Word} {d : List Byte} (hm : nextMove s = .response r d)
    (he : s.engine = .sendWait) : step s = .next (sendResponse r (popMove s)) := by
  rw [step_response hm, response, popMove_engine, he]

end Sys2Proof.Machine

namespace Sys2Proof.Proofs

open Sys2Proof Sys2Proof.Machine Sys2Proof.Claims

/-! ## The statements about the register operations (43_register_ops.md) -/

/-- Settles O27: the checks pass, the buffer is backed, and so the exchange opens behind the `WRITE` frame of its bytes. -/
theorem writeRegisterStartsItsExchange : Obligations.WriteRegisterStartsItsExchange := by
  unfold Obligations.WriteRegisterStartsItsExchange
  intro req s hb hv hbacked f
  have hframe : encode (.write (hintByte (latched 0x01 req)) req.addr (bufBytes s.bufmem req.ptr req.size.toNat)) = f := by
    rw [encode_write_eq_frameOf, bufBytes_length]
  have hstart : exec (.writeRegister req) s = startWriteRegister (accepted 0x01 req s) := runCommand_register (.inl rfl) hb hv
  have hread : rangeBacked (accepted 0x01 req s) req.ptr req.size.toNat = true := rangeBacked_of_backed_eq hbacked rfl
  rw [hstart, startWriteRegister_backed hread, startExchange_loadFrame, ← hframe]
  rfl

/-- Settles O28: the checks pass, and the exchange opens behind the `READ` frame without a look at the buffer. -/
theorem readRegisterStartsItsExchange : Obligations.ReadRegisterStartsItsExchange := by
  unfold Obligations.ReadRegisterStartsItsExchange
  intro req s hb hv f
  have hstart : exec (.readRegister req) s = startReadRegister (accepted 0x02 req s) := runCommand_register (.inr rfl) hb hv
  rw [hstart, startReadRegister, startExchange_loadFrame]
  rfl

/-- Settles O40: the engine sends what stands in the send buffer, and the invariant says which frame that is. -/
theorem registerSendRepeatsTheSameFrame : Obligations.RegisterSendRepeatsTheSameFrame := by
  unfold Obligations.RegisterSendRepeatsTheSameFrame
  intro s hinv hm he hstream
  refine ⟨hinv.step_send_register hm he hstream, ?_⟩
  rcases (hinv.exchangeOk he hstream).frame with ⟨hc, -, -, payload, hlen, hframe⟩ | ⟨hc, -, -, hframe⟩
  · exact .inl ⟨hc, payload, hlen, hframe.trans (encode_write_eq_frameOf _ _ _)⟩
  · exact .inr ⟨hc, hframe.trans (encode_read_eq_frameOf _ _ _)⟩

/-- Settles O41: the step takes the answer, whose count decides. -/
theorem sendAnswerMovesOnOrFails : Obligations.SendAnswerMovesOnOrFails := by
  unfold Obligations.SendAnswerMovesOnOrFails
  intro r d s hm he
  rw [step_response_of_sendWait hm he, ← sendFailure_eq_sendFailed]
  rcases sendResponse_cases r (popMove s) with ⟨hr, h⟩ | ⟨hr, h⟩ <;> rw [h]
  · exact ⟨fun _ => rfl, fun hne => absurd hr hne⟩
  · exact ⟨fun heq => absurd heq hr, fun _ => rfl⟩

/-- Settles O42: outside SEND the turn runs no instruction, and only RECV gives it something to do. -/
theorem engineTurnReceivesOrWaits : Obligations.EngineTurnReceivesOrWaits := by
  unfold Obligations.EngineTurnReceivesOrWaits
  intro s hm
  refine ⟨fun he => ?_, fun he => ?_⟩
  · rw [step_engineTurn hm (by simp [he]), engineTurn, popMove_engine, he]
    rfl
  · rw [step_engineTurn hm (fun hs => by simp [hs] at he), engineTurn, popMove_engine]
    rcases he with he | he | he | he | he <;> rw [he]

end Sys2Proof.Proofs

namespace Sys2Proof.Machine

open Claims

/-! ## FIFO streams (44_fifo_stream.md) -/

/-! ### The start of a stream -/

/-- A FIFO command that keeps the caller's contract starts from the accepted state (R281, R286). -/
theorem runCommand_stream {code : Byte} {req : Request} {s : State} (hc : code ≠ 0x10) (hb : s.busy = false)
    (hv : ¬ Violates code req) : runCommand code req (badBuffer req) startStream s = startStream (accepted code req s) := by
  rw [runCommand_starts hb (badBuffer_of_not_violates hc hv), acceptGo_eq_accepted]

/-- The cursor at the start of the buffer, with all of the request left (R242). -/
def streamBegun (s : State) : State := { s with c := { remaining := s.q.size, offset := 0, first := true } }

/-- The first chunk stands at the start of the buffer (R63). -/
theorem chunkAddr_streamBegun (s : State) : chunkAddr (streamBegun s) = s.q.ptr := BitVec.add_zero _

/-- A stream of no bytes ends at once with 0 (R242). -/
theorem startStream_empty {s : State} (h : s.q.size = 0) : startStream s = .next (ended 0 s) := by
  rw [startStream, if_pos h, finish_eq_ended]

/-- A stream with bytes to move opens its first chunk (R242). -/
theorem startStream_begun {s : State} (h : s.q.size ≠ 0) : startStream s = startChunk (streamBegun s) := if_neg h

/-- A `WRITE_FIFO` with bytes to move opens its first chunk, where that is backed (R222, R242). -/
theorem startStream_write {s : State} (hc : s.q.code = 0x04) (hne : s.q.size ≠ 0)
    (hb : rangeBacked s s.q.ptr (pieceOf s.q.size) = true) : startStream s = .next (writeChunkOpened (streamBegun s)) := by
  have hbegun : rangeBacked (streamBegun s) (chunkAddr (streamBegun s)) (pieceOf s.q.size) = true := by
    rw [chunkAddr_streamBegun]
    exact rangeBacked_of_backed_eq hb rfl
  exact (startStream_begun hne).trans (startChunk_write (s := streamBegun s) hc hbegun)

/-- A `READ_FIFO` with bytes to move opens its first chunk (R222, R242). -/
theorem startStream_read {s : State} (hc : s.q.code = 0x08) (hne : s.q.size ≠ 0) :
    startStream s = .next (readChunkOpened (streamBegun s)) :=
  (startStream_begun hne).trans (startChunk_read (s := streamBegun s) hc)

/-! ### The frame of a chunk -/

/-- R223: the FIFO-op byte as the sum of its three flags. -/
theorem fop_eq_sum (s : State) : fop s = BitVec.ofNat 8 ((if s.c.first && s.q.start then 1 else 0) +
    (if s.k.final && s.q.endf then 2 else 0) + (if s.k.resend && s.q.retryEn then 4 else 0)) := by
  unfold fop
  cases s.c.first && s.q.start <;> cases s.k.final && s.q.endf <;> cases s.k.resend && s.q.retryEn <;> rfl

/-- The payload of a `WRITE_FIFO` frame stands behind the hint byte and the seven bytes before it (R88, R96). -/
theorem payloadAt_eq_payloadOffset (q : Latched) : payloadAt q = payloadOffset q := by
  rw [payloadAt, hintLen, payloadOffset]
  split <;> rfl

/-- The length byte of a `WRITE_FIFO` counts the opcode, the FIFO-op byte, the address and the payload (R89, R96). -/
theorem encode_writeFifoFrame_eq_frameOf (hint : Option Byte) (fop : Byte) (addr : Word) (payload : List Byte) :
    encode (.writeFifoFrame hint fop addr payload) =
      frameOf hint ([BitVec.ofNat 8 (6 + payload.length), 0x04, fop] ++ le32 addr ++ payload) := by
  have hlen : (fop :: le32 addr ++ payload).length + 1 = 6 + payload.length := by simp; omega
  rw [encode, sealRequest_eq_frameOf, hlen]
  rfl

/-- The length byte of a `READ_FIFO` is 7 (R97). -/
theorem encode_readFifoFrame_eq_frameOf (hint : Option Byte) (fop : Byte) (addr : Word) (size : Byte) :
    encode (.readFifoFrame hint fop addr size) = frameOf hint ([7, 0x08, fop] ++ le32 addr ++ [size]) := rfl

theorem sendInstr_writeFifo {s : State} (hc : s.q.code = 0x04) :
    sendInstr s = some (.writeFifoFrame (hintByte s.q) (fop s) s.q.addr (chunkPayload s)) := if_pos hc

theorem sendInstr_readFifo {s : State} (hc : s.q.code = 0x08) :
    sendInstr s = some (.readFifoFrame (hintByte s.q) (fop s) s.q.addr (BitVec.ofNat 8 s.k.size)) := by
  rw [sendInstr, if_neg (by rw [hc]; decide), if_pos hc]

/-! ### The callback wait -/

/-- What the block holds while the chunk callback is pending: the engine state, the command with its cursor, its chunk and its pending
end, the progress registers, the phase records and the outstanding request (R237, R311). -/
def callbackView (s : State) :
    EngineState × Latched × Cursor × Chunk × PendingEnd × Word × Word × Phase × Phase × Option TxRequest :=
  (s.engine, s.q, s.c, s.k, s.e, s.bytesDone, s.chunks, s.ps, s.pa, s.outstanding)

theorem callbackView_eq_iff (s t : State) : callbackView t = callbackView s ↔
    t.engine = s.engine ∧ t.q = s.q ∧ t.c = s.c ∧ t.k = s.k ∧ t.e = s.e ∧ t.bytesDone = s.bytesDone ∧ t.chunks = s.chunks ∧
      t.ps = s.ps ∧ t.pa = s.pa ∧ t.outstanding = s.outstanding := by
  simp [callbackView]

theorem callbackView_writeReg (offset : Nat) (v : Word) (s : State) : callbackView (writeReg offset v s) = callbackView s := by
  obtain ⟨_, _, _, h, -⟩ := writeReg_eq offset v s
  rw [h]
  rfl

/-- With BUSY set the action of a CONTROL write without CB_ACK is a GO that is ignored (R287, R288). -/
theorem execControl_ignored {w : Word} {i : Instr} {s : State} (hd : controlOf w = .ok i) (hb : s.busy = true)
    (hw : w.getLsbD 1 ≠ true) : exec i s = .next s := by
  rcases controlOf_ok w i hd with ⟨-, rfl⟩ | ⟨-, hcb, -⟩ | ⟨-, hcb, -⟩
  · change execGo (w.getLsbD 1) _ s = _
    rw [execGo, if_pos hb, if_neg hw]
  · exact absurd hcb hw
  · exact absurd hcb hw

/-- In CB_WAIT only a reset and a CONTROL write with CB_ACK move the engine on (R237, R311). -/
theorem step_callbackView {s t : State} (hb : s.busy = true) (he : s.engine = .cbWait) (hrst : nextMove s ≠ .rst)
    (hack : ∀ w : Word, nextMove s = .hostWrite 32 0x1C w → w.getLsbD 1 ≠ true) (h : step s = .next t) :
    callbackView t = callbackView s := by
  have took := step_took s
  generalize step s = o at h took
  have kept {u : State} (h : (.next u : Res State) = .next t) (hu : callbackView u = callbackView s) :
      callbackView t = callbackView s := Host.Outcome.next.inj h ▸ hu
  cases took with
  | control w i hm hd => exact kept ((execControl_ignored (s := popMove s) hd hb (hack w hm)).symm.trans h) rfl
  | status w hm hd => exact kept h rfl
  | hostWrite width offset v hm ha => exact kept h (callbackView_writeReg offset v _)
  | send i hm hs hi hp => exact absurd (he.symm.trans hs) (by decide)
  | engine hm hi => exact kept h (by rw [engineTurn, popMove_engine, he]; rfl)
  | hostRead width offset hm ha => exact kept h rfl
  | response r d hm =>
    rw [response, popMove_engine, he] at h
    exact kept h rfl
  | lateResponse r d hm => exact kept h rfl
  | time ms hm => exact kept h rfl
  | bufStore a v hm =>
    obtain ⟨-, -, rfl⟩ := hostStore_next a v _ _ h
    rfl
  | bufLoad a hm =>
    obtain ⟨-, v, n, rfl⟩ := hostLoad_next a _ _ h
    rfl
  | rst hm => exact absurd hm hrst
  | notAdmitted => cases h

/-- DONE and CHUNK_PENDING belong to different engine states (R310). -/
theorem Inv.done_and_pending {s : State} (h : Inv s) : (s.done && s.chunkPending) = false := by
  by_cases he : s.engine = .idle
  · rw [h.pending, he]
    exact Bool.and_false _
  · rw [h.done he, Bool.false_and]

/-! ### The progress of a stream -/

/-- What a stream has moved so far: its cursor and the progress registers BYTES_DONE and CHUNKS (R42, R235). -/
def tally (s : State) : Cursor × Word × Word := (s.c, s.bytesDone, s.chunks)

theorem tally_eq_iff (s t : State) : tally t = tally s ↔ t.c = s.c ∧ t.bytesDone = s.bytesDone ∧ t.chunks = s.chunks := by
  simp [tally]

theorem startChunk_tally {s t : State} (h : startChunk s = .next t) : tally t = tally s := by
  rcases startChunk_next s t h with ⟨-, rfl⟩ | ⟨-, rfl⟩ <;> rfl

theorem continueStream_tally {abort : Bool} {s t : State} (h : continueStream abort s = .next t) : tally t = tally s := by
  rcases continueStream_next abort s t h with ⟨-, rfl⟩ | ⟨-, -, rfl⟩ | ⟨-, -, h⟩
  · rfl
  · rfl
  · exact startChunk_tally h

theorem callbackReturn_tally {abort : Bool} {s t : State} (h : callbackReturn abort s = .next t) : tally t = tally s := by
  rcases callbackReturn_next abort s t h with ⟨-, h⟩ | ⟨-, rfl⟩
  · exact (continueStream_tally h).trans rfl
  · rfl

theorem retryOrFinish_tally (ph : Phase) (back : EngineState) (s : State) : tally (retryOrFinish ph back s) = tally s := by
  rcases retryOrFinish_cases ph back s with ⟨-, h⟩ | ⟨-, h⟩ <;> rw [h] <;> rfl

theorem sendFailure_tally (s : State) : tally (sendFailure s) = tally s := by
  rcases sendFailure_cases s with ⟨-, h⟩ | ⟨-, -, h⟩ | ⟨-, -, h⟩ <;> rw [h]
  · rfl
  · exact retryOrFinish_tally _ _ _
  · exact retryOrFinish_tally _ _ _

theorem ackFailure_tally (s : State) : tally (ackFailure s) = tally s := by
  rcases ackFailure_cases s with ⟨-, h⟩ | ⟨-, -, h⟩ | ⟨-, -, h⟩ <;> rw [h]
  · rfl
  · exact retryOrFinish_tally _ _ _
  · exact retryOrFinish_tally _ _ _

theorem sendResponse_tally (r : Word) (s : State) : tally (sendResponse r s) = tally s := by
  rcases sendResponse_cases r s with ⟨-, h⟩ | ⟨-, h⟩ <;> rw [h]
  · rfl
  · exact sendFailure_tally _

theorem engineTurn_tally (s : State) : tally (engineTurn s) = tally s := by
  rcases engineTurn_cases s with ⟨-, h⟩ | ⟨-, h⟩ | h <;> rw [h] <;> rfl

theorem writeReg_tally (offset : Nat) (v : Word) (s : State) : tally (writeReg offset v s) = tally s := by
  obtain ⟨_, _, _, h, -⟩ := writeReg_eq offset v s
  rw [h]
  rfl

/-- While a command runs, the cursor and the progress registers change only at a reset, or where the answer to a receive is taken. -/
theorem step_tally {s t : State} (hb : s.busy = true) (hrst : nextMove s ≠ .rst) (h : step s = .next t) :
    tally t = tally s ∨ (s.engine = .recvWait ∧ ∃ r d, recvResponse r d (popMove s) = .next t) := by
  have took := step_took s
  generalize step s = o at h took
  have kept {u : State} (h : (.next u : Res State) = .next t) (hu : tally u = tally s) :
      tally t = tally s ∨ (s.engine = .recvWait ∧ ∃ r d, recvResponse r d (popMove s) = .next t) :=
    .inl (Host.Outcome.next.inj h ▸ hu)
  cases took with
  | control w i hm hd =>
    rcases execControl_next hd h with rfl | ⟨abort, hk⟩ | ⟨hidle, -⟩
    · exact .inl rfl
    · exact .inl ((callbackReturn_tally hk).trans rfl)
    · exact absurd hb (Bool.eq_false_iff.1 hidle)
  | status w hm hd => exact kept h rfl
  | hostWrite width offset v hm ha => exact kept h (writeReg_tally offset v _)
  | send i hm he hi hp =>
    obtain ⟨-, rfl⟩ := sendFrame_next _ _ _ h
    exact .inl rfl
  | engine hm hi => exact kept h (engineTurn_tally _)
  | hostRead width offset hm ha => exact kept h rfl
  | response r d hm =>
    rcases response_next h with ⟨-, rfl⟩ | ⟨he, h⟩ | ⟨-, rfl⟩ | rfl
    · exact .inl (sendResponse_tally r _)
    · exact .inr ⟨he, r, d, h⟩
    · exact .inl rfl
    · exact .inl rfl
  | lateResponse r d hm => exact kept h rfl
  | time ms hm => exact kept h rfl
  | bufStore a v hm =>
    obtain ⟨-, -, rfl⟩ := hostStore_next a v _ _ h
    exact .inl rfl
  | bufLoad a hm =>
    obtain ⟨-, v, n, rfl⟩ := hostLoad_next a _ _ h
    exact .inl rfl
  | rst hm => exact absurd hm hrst
  | notAdmitted => cases h

/-- From `s` to `t` a stream has accepted one chunk of at least one byte (R235, R248). -/
structure ChunkMoved (s t : State) : Prop where
  stream : isFifo s.q.code = true
  count : t.chunks.toNat = s.chunks.toNat + 1
  fewer : t.c.remaining.toNat < s.c.remaining.toNat
  offset : t.c.offset.toNat = s.c.offset.toNat + (s.c.remaining.toNat - t.c.remaining.toNat)
  bytesDone : t.bytesDone = t.c.offset

/-- An accepted chunk that does not stop the stream has moved at least one byte, and no more than are left (R221, R232, R235). -/
theorem StreamOk.moved_size {s : State} {st : Word} {a : Nat} (hx : StreamOk s) (he : s.engine ≠ .cbWait) (hle : a ≤ s.k.size)
    (hw : s.q.code = 0x04 → a = s.k.size) (hns : readStops st a s = false) : 1 ≤ a ∧ a ≤ s.c.remaining.toNat := by
  have hchunk := hx.chunk he
  have hleft := chunkSize_le_remaining s.c.remaining
  rw [hchunk.size] at hle
  refine ⟨?_, hle.trans hleft⟩
  rcases hx.code with hc | hc
  · rw [hw hc, hchunk.size]
    exact chunkSize_pos _ hchunk.left
  · refine Nat.pos_of_ne_zero fun h0 => ?_
    simp [readStops, hc, h0] at hns

/-- The cursor advanced by `a` bytes moves a chunk of `a` bytes; CHUNKS cannot wrap, since each chunk before took a byte too (R235). -/
theorem StreamOk.moved_of_advance {s t : State} {st : Word} {a : Nat} (hx : StreamOk s) (hpos : 1 ≤ a) (hle : a ≤ s.c.remaining.toNat)
    (h : tally t = tally (advance st a s)) : ChunkMoved s t := by
  obtain ⟨hc, hbytes, hchunks⟩ := (tally_eq_iff _ t).1 h
  have hsize := s.q.size.isLt
  have hcursor := hx.cursor
  have hbound := hx.chunks
  have hoff : t.c.offset.toNat = s.c.offset.toNat + a := by
    rw [hc, advance_c]
    exact toNat_add_ofNat _ _ (by omega)
  have hrem : t.c.remaining.toNat = s.c.remaining.toNat - a := by
    rw [hc, advance_c]
    exact toNat_sub_ofNat _ _ hle
  have hcount : t.chunks.toNat = s.chunks.toNat + 1 := by
    rw [hchunks, advance_chunks]
    exact toNat_add_ofNat _ 1 (by omega)
  refine ⟨?_, hcount, by omega, by omega, by rw [hbytes, hc]; rfl⟩
  rcases hx.code with hcode | hcode <;> rw [hcode] <;> rfl

/-- An accepted chunk stops the stream, which leaves CHUNKS as it is, or is moved (R231, R232). -/
theorem StreamOk.chunkOk_moved {s t : State} {st : Word} {a : Nat} (hx : StreamOk s) (he : s.engine ≠ .cbWait) (hle : a ≤ s.k.size)
    (hw : s.q.code = 0x04 → a = s.k.size) (ht : chunkOk st a s = .next t) : t.chunks = s.chunks ∨ ChunkMoved s t := by
  rcases chunkOk_next st a s t ht with ⟨-, rfl⟩ | ⟨hns, m, -, ht⟩
  · exact .inl rfl
  obtain ⟨hpos, hleft⟩ := hx.moved_size he hle hw hns
  refine .inr (hx.moved_of_advance (st := st) hpos hleft ?_)
  rcases ht with ⟨-, rfl⟩ | ⟨-, ht⟩
  · rfl
  · exact (continueStream_tally ht).trans rfl

/-- A running `READ_FIFO` waits for its own acknowledgement (R222). -/
theorem StreamOk.expack_of_read {s : State} (hx : StreamOk s) (he : s.engine ≠ .cbWait) (hc : s.q.code = 0x08) : s.expack = 0x88 := by
  rcases (hx.chunk he).ack with ⟨h4, -⟩ | ⟨-, -, hack⟩
  · rw [hc] at h4
    cases h4
  · exact hack

/-- Of the accepted acknowledgements only a stream's changes CHUNKS, and that by moving its chunk (R197, R235). -/
theorem Exchanging.ackAccept_moved {s t : State} {st : Word} (h : Exchanging s)
    (hcount : s.expack = 0x88 → (byteAt s.rxbuf 6).toNat ≤ s.k.size) (ht : ackAccept st s = .next t) :
    t.chunks = s.chunks ∨ ChunkMoved s t := by
  rcases ackAccept_next st s t ht with ⟨hc, ht⟩ | ⟨hc, ht⟩ | ⟨-, -, ht⟩
  · exact (h.streamOk (by rw [hc]; rfl)).chunkOk_moved h.noCallback le_rfl (fun _ => rfl) ht
  · have hx := h.streamOk (by rw [hc]; rfl)
    exact hx.chunkOk_moved h.noCallback (hcount (hx.expack_of_read h.noCallback hc)) (fun h4 => by rw [hc] at h4; cases h4) ht
  · rcases regAccept_next st s t ht with ⟨-, rfl⟩ | ⟨-, rfl⟩ <;> exact .inl rfl

/-- Taking the answer to a receive changes CHUNKS only by moving a chunk (R228, R235). -/
theorem Inv.recvResponse_moved {s t : State} {r : Word} {d : List Byte} (h : Inv s) (ht : recvResponse r d s = .next t) :
    t.chunks = s.chunks ∨ ChunkMoved s t := by
  rcases recvResponse_next r d s t ht with ⟨-, rfl⟩ | ⟨he, -, hd, st, hok, ht⟩ | ⟨-, -, ls, rfl, -⟩
  · exact .inl rfl
  · have taken : Exchanging (takeResponse r d s) := h.exchanging (by simp [he]) {} (h.bounds.takeResponse fun _ => hd) rfl
    refine (taken.ackAccept_moved (decodeAck_ok _ _ _ hok).2.2 ht).imp_right fun hm => ?_
    exact ⟨hm.stream, hm.count, hm.fewer, hm.offset, hm.bytesDone⟩
  · obtain ⟨-, -, hchunks⟩ := (tally_eq_iff _ _).1 (ackFailure_tally { takeResponse r d s with ls := ls })
    exact .inl hchunks

end Sys2Proof.Machine

namespace Sys2Proof.Proofs

open Sys2Proof Sys2Proof.Machine Sys2Proof.Claims

/-! ## The statements about FIFO streams (44_fifo_stream.md) -/

/-- Settles O29: the checks pass, and the start of the stream ends it or opens the chunk at the start of the buffer, which is backed. -/
theorem writeFifoStartsItsStream : Obligations.WriteFifoStartsItsStream := by
  unfold Obligations.WriteFifoStartsItsStream
  intro req s hb hv
  have hstart : exec (.writeFifo req) s = startStream (accepted 0x04 req s) := runCommand_stream (by decide) hb hv
  rw [hstart]
  exact ⟨fun h0 => startStream_empty h0, fun hne hbacked => startStream_write rfl hne (rangeBacked_of_backed_eq hbacked rfl)⟩

/-- Settles O30: the checks pass, and the start of the stream ends it with no byte counted or opens the first chunk. -/
theorem readFifoStartsItsStream : Obligations.ReadFifoStartsItsStream := by
  unfold Obligations.ReadFifoStartsItsStream
  intro req s hb hv
  have hstart : exec (.readFifo req) s = startStream (accepted 0x08 req s) := runCommand_stream (by decide) hb hv
  rw [hstart]
  exact ⟨fun h0 => startStream_empty h0, fun hne => startStream_read rfl hne⟩

/-- Settles O35: the invariant after the step keeps the two bits apart, and every move but the two that may leave CB_WAIT keeps what the
callback waits with. -/
theorem callbackWaitHoldsTheStream : Obligations.CallbackWaitHoldsTheStream := by
  unfold Obligations.CallbackWaitHoldsTheStream
  intro s t hinv h
  refine ⟨(stepKeepsTheInvariant s t hinv h).done_and_pending, fun he => ?_⟩
  by_cases hrst : nextMove s = .rst
  · exact .inl hrst
  by_cases hack : ∃ w : Word, nextMove s = .hostWrite 32 0x1C w ∧ w.getLsbD 1 = true
  · exact .inr (.inl hack)
  have hb : s.busy = true := by rw [hinv.busy, he]; rfl
  have hnone : s.outstanding = none := by rw [hinv.request, outstandingFor, he]
  have hview := step_callbackView hb he hrst (fun w hm hw => hack ⟨w, hm, hw⟩) h
  rw [callbackView_eq_iff, he, hnone] at hview
  exact .inr (.inr hview)

/-- Settles O39: the turn sends the chunk's frame, whose FIFO-op byte and length byte are those of R223 and R89. -/
theorem chunkSendCarriesItsFifoOp : Obligations.ChunkSendCarriesItsFifoOp := by
  unfold Obligations.ChunkSendCarriesItsFifoOp
  intro s hm he hb fop sent
  have hfop : Machine.fop s = fop := fop_eq_sum s
  have hsend (i : Instr) (hi : sendInstr s = some i) : step s = .next (sent (encode i)) :=
    (step_sendFrame hm he hi).trans (sendFrame_of_send (s := popMove s) he)
  refine ⟨fun hc => ?_, fun hc => ?_⟩
  · rw [hsend _ (sendInstr_writeFifo hc), encode_writeFifoFrame_eq_frameOf, chunkPayload_length hb, hfop, chunkPayload,
      payloadAt_eq_payloadOffset]
  · rw [hsend _ (sendInstr_readFifo hc), encode_readFifoFrame_eq_frameOf, hfop]

/-- Settles O59: while a command runs only the answer to a receive changes CHUNKS, and it does so by moving a chunk. -/
theorem everyAcceptedChunkMakesProgress : Obligations.EveryAcceptedChunkMakesProgress := by
  unfold Obligations.EveryAcceptedChunkMakesProgress
  intro s t hinv hb hrst h hne
  rcases step_tally hb hrst h with hk | ⟨he, r, d, ht⟩
  · obtain ⟨-, -, hchunks⟩ := (tally_eq_iff s t).1 hk
    exact absurd hchunks hne
  have hpop : Inv (popMove s) := hinv.quiet {}
  obtain ⟨hstream, hcount, hfewer, hoffset, hbytes⟩ := (hpop.recvResponse_moved ht).resolve_left hne
  exact ⟨hcount, he, hstream, hfewer, hoffset, hbytes⟩

end Sys2Proof.Proofs

namespace Sys2Proof.Machine

open Claims

/-! ## The retry policy (45_retry_policy.md) -/

/-! ### A phase record after one failed attempt -/

/-- The first failure arms the record at its own time (R262). -/
theorem chargePhase_unarmed {ph : Phase} (now T : Word) (h : ph.armed = false) :
    chargePhase now T ph = { slots := ph.slots, armed := true, t0 := now } := by
  rw [chargePhase_eq_afterFailure, afterFailure, if_pos h]

/-- A failure inside the window leaves an armed record as it is (R264). -/
theorem chargePhase_within {now T : Word} {ph : Phase} (ha : ph.armed = true)
    (h : (now.toNat + 4294967296 - ph.t0.toNat) % 4294967296 ≤ T.toNat) : chargePhase now T ph = ph := by
  rw [chargePhase_eq_afterFailure, afterFailure, if_neg (by simp [ha]), if_neg (Nat.not_lt.2 h)]

/-- A failure past the window counts a slot and restarts the window at its own time (R263, R264). -/
theorem chargePhase_exceeds {now T : Word} {ph : Phase} (ha : ph.armed = true)
    (h : T.toNat < (now.toNat + 4294967296 - ph.t0.toNat) % 4294967296) :
    chargePhase now T ph = { slots := ph.slots + 1, armed := true, t0 := now } := by
  rw [chargePhase_eq_afterFailure, afterFailure, if_neg (by simp [ha]), if_pos h]

/-- No elapsed time exceeds the largest timeout (R269). -/
theorem chargePhase_slots_of_max (now : Word) (ph : Phase) : (chargePhase now 0xFFFFFFFF ph).slots = ph.slots := by
  cases ha : ph.armed with
  | false => rw [chargePhase_unarmed _ _ ha]
  | true =>
    have hmax : (0xFFFFFFFF : Word).toNat = 4294967295 := rfl
    rw [chargePhase_within ha (by omega)]

/-- A phase goes on while its slots stay below the budget (R262). -/
theorem phaseOver_eq_false_iff (R : Word) (ph : Phase) : phaseOver R ph = false ↔ ph.slots.toNat < R.toNat := by
  rw [← Bool.not_eq_true, phaseOver_iff, Nat.not_le]

/-- A fresh record does not end its phase at its first failure (R262). -/
theorem phaseOver_chargePhase_fresh {R : Word} {ph : Phase} (now T : Word) (hs : ph.slots = 0) (ha : ph.armed = false)
    (hR : 0 < R.toNat) : phaseOver R (chargePhase now T ph) = false := by
  rw [phaseOver_eq_false_iff, chargePhase_unarmed now T ha, hs]
  exact hR

/-! ### The failures charged to one record -/

/-- The record `ph` after the failures at `f 0` to `f n`. -/
def chargedThrough (T : Word) (f : Nat → Nat) (ph : Phase) (n : Nat) : Phase :=
  ((List.range (n + 1)).map f).foldl (fun p t => chargePhase (BitVec.ofNat 32 t) T p) ph

theorem chargedThrough_zero (T : Word) (f : Nat → Nat) (ph : Phase) :
    chargedThrough T f ph 0 = chargePhase (BitVec.ofNat 32 (f 0)) T ph := rfl

theorem chargedThrough_succ (T : Word) (f : Nat → Nat) (ph : Phase) (n : Nat) :
    chargedThrough T f ph (n + 1) = chargePhase (BitVec.ofNat 32 (f (n + 1))) T (chargedThrough T f ph n) := by
  rw [chargedThrough, List.range_succ, List.map_append, List.foldl_append]
  rfl

/-- The elapsed time of R264 is the true one while less than 2^32 ms have passed. -/
theorem elapsed_ofNat {start now : Nat} (hle : start ≤ now) (hlt : now < start + 4294967296) :
    ((BitVec.ofNat 32 now).toNat + 4294967296 - (BitVec.ofNat 32 start).toNat) % 4294967296 = now - start := by
  simp only [BitVec.toNat_ofNat]
  omega

/-- What R266 keeps of a record armed at `f0`, after a failure at `now`: its window has begun at `start` and is not past,
and each slot has taken from `T + 1` to `T + g` ms. -/
structure InWindow (T : Word) (g f0 start now : Nat) (ph : Phase) : Prop where
  armed : ph.armed = true
  t0 : ph.t0 = BitVec.ofNat 32 start
  begun : start ≤ now
  notPast : now ≤ start + T.toNat
  earliest : f0 + ph.slots.toNat * (T.toNat + 1) ≤ start
  latest : start ≤ f0 + ph.slots.toNat * (T.toNat + g)

/-- The first failure of a fresh record opens its first window (R262). -/
theorem InWindow.of_fresh {T : Word} {ph : Phase} (g f0 : Nat) (hs : ph.slots = 0) (ha : ph.armed = false) :
    InWindow T g f0 f0 f0 (chargePhase (BitVec.ofNat 32 f0) T ph) := by
  rw [chargePhase_unarmed _ _ ha, hs]
  exact { armed := rfl, t0 := rfl, begun := le_rfl, notPast := Nat.le_add_right _ _, earliest := by simp, latest := by simp }

/-- A failure at most `g` ms after the one before it stays in the window or opens the next one (R266). -/
theorem InWindow.charge {T : Word} {g f0 start now now' : Nat} {ph : Phase} (h : InWindow T g f0 start now ph)
    (hle : now ≤ now') (hgap : now' ≤ now + g) (hg : T.toNat + g < 4294967296) (hslots : ph.slots.toNat + 1 < 4294967296) :
    ∃ start', InWindow T g f0 start' now' (chargePhase (BitVec.ofNat 32 now') T ph) := by
  obtain ⟨harmed, ht0, hbegun, hnotPast, hearliest, hlatest⟩ := h
  have helapsed : ((BitVec.ofNat 32 now').toNat + 4294967296 - ph.t0.toNat) % 4294967296 = now' - start := by
    rw [ht0]
    exact elapsed_ofNat (by omega) (by omega)
  rcases Nat.lt_or_ge T.toNat (now' - start) with hpast | hin
  · rw [chargePhase_exceeds harmed (helapsed ▸ hpast)]
    have hcount : (ph.slots + 1).toNat = ph.slots.toNat + 1 := toNat_add_ofNat ph.slots 1 hslots
    refine ⟨now', rfl, rfl, le_rfl, Nat.le_add_right _ _, ?_, ?_⟩ <;>
    · simp only [hcount, Nat.succ_mul]
      omega
  · rw [chargePhase_within harmed (helapsed ▸ hin)]
    exact ⟨start, harmed, ht0, by omega, by omega, hearliest, hlatest⟩

section

variable {T R : Word} {ph : Phase} {g : Nat} {f : Nat → Nat}

/-- While no failure before `n` ends the phase, the record keeps what R266 says. -/
theorem chargedThrough_inWindow (hs : ph.slots = 0) (ha : ph.armed = false) (hg : T.toNat + g < 4294967296)
    (hf : ∀ j, f j ≤ f (j + 1) ∧ f (j + 1) ≤ f j + g) (n : Nat)
    (hon : ∀ j, j < n → phaseOver R (chargedThrough T f ph j) = false) :
    ∃ start, InWindow T g (f 0) start (f n) (chargedThrough T f ph n) := by
  induction n with
  | zero => exact ⟨f 0, chargedThrough_zero T f ph ▸ .of_fresh g (f 0) hs ha⟩
  | succ n ih =>
    obtain ⟨start, h⟩ := ih fun j hj => hon j (Nat.lt_succ_of_lt hj)
    have hbelow := (phaseOver_eq_false_iff _ _).1 (hon n (Nat.lt_succ_self n))
    have hR := R.isLt
    rw [chargedThrough_succ]
    exact h.charge (hf n).1 (hf n).2 hg (by omega)

/-- A failure with the budget not yet spent comes `g` ms or more before the upper bound of R266. -/
theorem InWindow.before_bound {f0 start now : Nat} (h : InWindow T g f0 start now ph) (hon : phaseOver R ph = false) :
    now + g ≤ f0 + R.toNat * (T.toNat + g) := by
  have hslots : ph.slots.toNat + 1 ≤ R.toNat := (phaseOver_eq_false_iff R ph).1 hon
  calc now + g ≤ f0 + (ph.slots.toNat + 1) * (T.toNat + g) := by
        have hnotPast := h.notPast
        have hlatest := h.latest
        rw [Nat.succ_mul]
        omega
    _ ≤ f0 + R.toNat * (T.toNat + g) := Nat.add_le_add_left (Nat.mul_le_mul_right _ hslots) _

/-- A failure with the budget spent comes no earlier than the lower bound of R266. -/
theorem InWindow.after_bound {f0 start now : Nat} (h : InWindow T g f0 start now ph) (hover : phaseOver R ph = true) :
    f0 + R.toNat * (T.toNat + 1) ≤ now :=
  calc f0 + R.toNat * (T.toNat + 1)
      ≤ f0 + ph.slots.toNat * (T.toNat + 1) := Nat.add_le_add_left (Nat.mul_le_mul_right _ ((phaseOver_iff R ph).1 hover)) _
    _ ≤ start := h.earliest
    _ ≤ now := h.begun

end

/-! ### The time agent, and answers to no request -/

/-- The time agent's move runs no instruction and moves `TIME_MS` on (R260). -/
theorem step_time {s : State} {ms : Nat} (hm : nextMove s = .time ms) :
    step s = .next { popMove s with timeMs := s.timeMs + BitVec.ofNat 32 ms } := by
  have hf : fetch s = none := by simp [fetch, hm]
  rw [step, hf, hm]
  rfl

/-- An answer to an abandoned request is discarded (R342). -/
theorem step_lateResponse {s : State} {r : Word} {d : List Byte} (hm : nextMove s = .lateResponse r d) :
    step s = .next (popMove s) := by
  have hf : fetch s = none := by simp [fetch, hm]
  rw [step, hf, hm]
  rfl

/-- In a state that waits for no answer, one is discarded (log 4). -/
theorem response_of_noRequest {s : State} (r : Word) (d : List Byte) (h : outstandingFor s = none) :
    response r d s = .next s := by
  unfold outstandingFor at h
  unfold response
  cases he : s.engine with
  | idle | send | recv | cbWait => rfl
  | sendWait | recvWait | ctlWait => simp [he] at h

end Sys2Proof.Machine

namespace Sys2Proof.Proofs

open Sys2Proof Sys2Proof.Machine Sys2Proof.Claims

/-! ## The statements about the retry policy (45_retry_policy.md) -/

/-- Settles O51: a record is charged as R262 to R264 spell out, and the slots decide. -/
theorem retryCountsElapsedWindows : Obligations.RetryCountsElapsedWindows := by
  unfold Obligations.RetryCountsElapsedWindows
  refine ⟨chargePhase_eq_afterFailure, phaseOver_iff, fun now T R ph hs ha hR => ?_, chargePhase_slots_of_max⟩
  exact phaseOver_chargePhase_fresh now T hs ha (Nat.pos_of_ne_zero fun h0 => hR (BitVec.eq_of_toNat_eq h0))

/-- Settles O52: the record keeps its window up to the failure that ends the phase, which is not the first; the failure before it, with budget left,
bounds it from above. -/
theorem retryLatencyIsBounded : Obligations.RetryLatencyIsBounded := by
  unfold Obligations.RetryLatencyIsBounded
  intro T R ph g f hs ha hR hg1 hg hf
  change (∀ n, phaseOver R (chargedThrough T f ph n) = true → (∀ j, j < n → phaseOver R (chargedThrough T f ph j) = false) → _) ∧
    ∀ n, _ → ∃ j, j ≤ n ∧ phaseOver R (chargedThrough T f ph j) = true
  have window := chargedThrough_inWindow (R := R) hs ha hg hf
  constructor
  · intro n hover hon
    obtain ⟨start, hn⟩ := window n hon
    refine ⟨hn.after_bound hover, ?_⟩
    cases n with
    | zero =>
      have hfirst : phaseOver R (chargedThrough T f ph 0) = false := phaseOver_chargePhase_fresh _ T hs ha hR
      simp [hfirst] at hover
    | succ n =>
      obtain ⟨start', hprev⟩ := window n fun j hj => hon j (Nat.lt_succ_of_lt hj)
      exact (hf n).2.trans (hprev.before_bound (hon n (Nat.lt_succ_self n)))
  · intro n hlate
    by_contra hnone
    have hon (j : Nat) (hj : j ≤ n) : phaseOver R (chargedThrough T f ph j) = false :=
      Bool.eq_false_iff.2 fun hover => hnone ⟨j, hj, hover⟩
    obtain ⟨start, hn⟩ := window n fun j hj => hon j hj.le
    have hearly := hn.before_bound (hon n le_rfl)
    omega

/-- Settles O60: the three moves run no instruction; the third is taken in a state that, by the invariant, waits for no answer. -/
theorem timeAndLateAnswers : Obligations.TimeAndLateAnswers := by
  unfold Obligations.TimeAndLateAnswers
  refine ⟨fun s ms hm => ⟨s.timeMs + BitVec.ofNat 32 ms, ?_, step_time hm⟩, fun s r d hm => step_lateResponse hm,
    fun s r d hm hinv hnone => ?_⟩
  · simp
  · have hwaits : outstandingFor (popMove s) = none := hinv.request.symm.trans hnone
    rw [step_response hm, response_of_noRequest r d hwaits]

end Sys2Proof.Proofs

namespace Sys2Proof.Machine

open Claims

/-! ## Host control (46_host_control.md) -/

/-! ### The instruction a move brings -/

theorem fetch_control {s : State} {w : Word} (hm : nextMove s = .hostWrite 32 0x1C w) :
    fetch s = instrOf (decode .control (le32 w)) := by
  simp [fetch, hm, controlOffset]

theorem fetch_status {s : State} {w : Word} (hm : nextMove s = .hostWrite 32 0x20 w) :
    fetch s = instrOf (decode .status (le32 w)) := by
  simp [fetch, hm, controlOffset, statusOffset]

/-- A register command sends the frame that stands in the send buffer (R193). -/
theorem fetch_send_register {s : State} (hm : nextMove s = .engine) (he : s.engine = .send) (hf : isStream s = false) :
    fetch s = instrOf (decode (.request s.q.tagged) (s.txbuf.take s.txlen)) := by
  obtain ⟨h4, h8⟩ : s.q.code ≠ 0x04 ∧ s.q.code ≠ 0x08 := by simpa [isStream] using hf
  rw [fetch, hm]
  simp only [he, if_true, sendInstr, h4, h8, if_false, txFrame]

/-- In RECV_WAIT a full count of bytes that are an acknowledgement brings that acknowledgement (R196, R228). -/
theorem fetch_ack {s : State} {d : List Byte} {i : Instr} (hm : nextMove s = .response (BitVec.ofNat 32 d.length) d)
    (he : s.engine = .recvWait) (hlen : d.length = s.rxn) (hd : decode .ack d = .ok i) : fetch s = some i := by
  obtain ⟨hwf, hport, rfl⟩ := decodeAckFrame_inv d i hd
  have hcount : (BitVec.ofNat 32 (encode i).length).toInt = s.rxn := by
    rw [toInt_ofNat_len _ (ack_length_le i hport hwf), hlen]
  simp only [fetch, hm]
  rw [if_pos ⟨he, hcount, hlen⟩, hd]
  rfl

theorem step_of_fetch {s : State} {i : Instr} (h : fetch s = some i) : step s = exec i (popMove s) := by
  rw [step, h]

/-- A CONTROL or STATUS write whose word is no action changes nothing (R30, R293). -/
theorem step_of_noAction {s : State} {offset : Nat} {w : Word} (hm : nextMove s = .hostWrite 32 offset w)
    (ho : offset = 0x1C ∨ offset = 0x20) (hf : fetch s = none) : step s = .next (popMove s) := by
  rw [step, hf, hm]
  rcases ho with rfl | rfl <;> simp [otherMove, admitted, writeReg]

/-! ### The checks and the start of a command -/

/-- The checks of a GO by its code: 2 to 4 for a register command, 2 and 3 for a stream, check 1 for an illegal code (R282 to R284). -/
def checksFail (code : Byte) (req : Request) : Bool :=
  if code = 0x01 ∨ code = 0x02 then badBuffer req || oversized req
  else if code = 0x04 ∨ code = 0x08 then badBuffer req
  else code != 0x10

/-- The start of an accepted command by its code (R286). -/
def commandStart (code : Byte) : State → Res State :=
  if code = 0x01 then startWriteRegister
  else if code = 0x02 then startReadRegister
  else if code = 0x04 ∨ code = 0x08 then startStream
  else if code = 0x10 then startSetChannelTimeout
  else Host.Outcome.next

theorem dispatchCommand_eq_runCommand (code : Byte) (req : Request) (s : State) :
    dispatchCommand code req s = runCommand code req (checksFail code req) (commandStart code) s := by
  unfold dispatchCommand
  split
  case isTrue h => subst h; rfl
  split
  case isTrue h => subst h; rfl
  split
  case isTrue h => subst h; rfl
  split
  case isTrue h => subst h; rfl
  split
  case isTrue h => subst h; rfl
  case isFalse h1 h2 h4 h8 h10 =>
    have hfail : checksFail code req = true := by
      rw [checksFail, if_neg (not_or.2 ⟨h1, h2⟩), if_neg (not_or.2 ⟨h4, h8⟩)]
      exact bne_iff_ne.2 h10
    simp only [commandStart, hfail, h1, h2, h4, h8, h10, or_self, if_false]

theorem badBuffer_iff (req : Request) : badBuffer req = true ↔
    (0 < req.size.toNat ∧ req.ptr = 0) ∨ 4294967296 < req.ptr.toNat + req.size.toNat := by
  simp [badBuffer, BitVec.lt_def]

theorem oversized_iff (req : Request) : oversized req = true ↔ 240 < req.size.toNat := by simp [oversized]

/-- The checks fail exactly where the caller's contract is broken (R282 to R284). -/
theorem checksFail_iff_violates (code : Byte) (req : Request) : checksFail code req = true ↔ Violates code req := by
  unfold checksFail Violates
  split
  case isTrue h => rcases h with rfl | rfl <;> simp [badBuffer_iff, oversized_iff, or_assoc]
  split
  case isTrue h => rcases h with rfl | rfl <;> simp [badBuffer_iff]
  case isFalse hreg hfifo =>
    by_cases h10 : code = 0x10
    · subst h10; simp
    · exact ⟨fun _ => .inl (by tauto), fun _ => bne_iff_ne.2 h10⟩

theorem dispatchCommand_of_busy {code : Byte} {req : Request} {s : State} (hb : s.busy = true) :
    dispatchCommand code req s = .next s := by
  rw [dispatchCommand_eq_runCommand, runCommand, if_pos hb]

/-- R285: a command that breaks the caller's contract ends in the same step. -/
theorem dispatchCommand_of_violates {code : Byte} {req : Request} {s : State} (hb : s.busy = false) (hv : Violates code req) :
    dispatchCommand code req s = .next (refusedGo code req s) := by
  rw [dispatchCommand_eq_runCommand, runCommand, if_neg (by simp [hb]), if_pos ((checksFail_iff_violates code req).2 hv),
    acceptGo_eq_accepted]
  rfl

/-- R286: a command that keeps the caller's contract starts from the accepted state. -/
theorem dispatchCommand_of_not_violates {code : Byte} {req : Request} {s : State} (hb : s.busy = false) (hv : ¬ Violates code req) :
    dispatchCommand code req s = commandStart code (accepted code req s) := by
  have hok : checksFail code req = false := Bool.eq_false_iff.2 fun h => hv ((checksFail_iff_violates code req).1 h)
  rw [dispatchCommand_eq_runCommand, runCommand_starts hb hok, acceptGo_eq_accepted]

/-- The legal codes (R81, R282). -/
def LegalCode (code : Byte) : Prop := code = 0x01 ∨ code = 0x02 ∨ code = 0x04 ∨ code = 0x08 ∨ code = 0x10

theorem legalCode_of_not_violates {code : Byte} {req : Request} (hv : ¬ Violates code req) : LegalCode code := by
  by_contra h
  exact hv (.inl h)

/-! ### What the start of a command leaves -/

/-- What the host sees of an accepted command, with its latched request and the time: all but the outstanding request and the
records of the exchange and the stream, which the start of a command sets up. -/
def goView (s : State) :=
  (s.q, s.busy, s.done, s.bytesDone, s.chunks, s.e.pending, s.chunkPending, s.engine, s.result, s.cmd, s.addr, s.dataPtr, s.dataSize,
    s.timeoutMs, s.maxRetries, s.flags, s.irqEn, s.chanTimeout, s.timeMs, s.bufmem, s.rxbuf, s.env)

theorem startChunk_goView {s t : State} (h : startChunk s = .next t) : goView t = goView { s with engine := .send } := by
  rcases startChunk_next s t h with ⟨-, rfl⟩ | ⟨-, rfl⟩ <;> rfl

/-- A command that starts is a stream of no bytes, which has ended, or has moved the engine on (R242, R286). -/
theorem commandStart_next {code : Byte} {s t : State} (hc : LegalCode code) (h : commandStart code s = .next t) :
    ((code = 0x04 ∨ code = 0x08) ∧ s.q.size = 0 ∧ t = ended 0 s) ∨
      (((code = 0x04 ∨ code = 0x08) → s.q.size ≠ 0) ∧
        goView t = goView { s with engine := if code = 0x10 then .ctlWait else .send }) := by
  have stream (h : startStream s = .next t) :
      (s.q.size = 0 ∧ t = ended 0 s) ∨ (s.q.size ≠ 0 ∧ goView t = goView { s with engine := .send }) :=
    (startStream_next s t h).imp id fun ⟨hne, hk⟩ => ⟨hne, startChunk_goView (s := streamBegun s) hk⟩
  rcases hc with rfl | rfl | rfl | rfl | rfl
  · obtain ⟨bs, -, ht⟩ := andThen_eq_next h
    obtain rfl := Host.Outcome.next.inj ht
    exact .inr ⟨fun hk => absurd hk (by decide), rfl⟩
  · obtain rfl := Host.Outcome.next.inj h
    exact .inr ⟨fun hk => absurd hk (by decide), rfl⟩
  · exact (stream h).imp (fun hk => ⟨.inl rfl, hk⟩) fun ⟨hne, hk⟩ => ⟨fun _ => hne, hk⟩
  · exact (stream h).imp (fun hk => ⟨.inr rfl, hk⟩) fun ⟨hne, hk⟩ => ⟨fun _ => hne, hk⟩
  · obtain rfl := Host.Outcome.next.inj h
    exact .inr ⟨fun hk => absurd hk (by decide), rfl⟩

theorem rangeBacked_of_le {s : State} {a : Word} {m n : Nat} (hmn : m ≤ n) (h : rangeBacked s a n = true) :
    rangeBacked s a m = true := by
  induction n generalizing a m with
  | zero => rwa [Nat.le_zero.1 hmn]
  | succ n ih =>
    cases m with
    | zero => rfl
    | succ m =>
      simp only [rangeBacked, Bool.and_eq_true] at h ⊢
      obtain ⟨hfirst, hrest⟩ := h
      exact ⟨hfirst, ih (Nat.le_of_succ_le_succ hmn) hrest⟩

/-- A command whose buffer is backed, where it reads it, starts (R62, R286). -/
theorem commandStart_backed {code : Byte} {s : State} (hc : LegalCode code) (hq : s.q.code = code)
    (hb : code = 0x01 ∨ code = 0x04 → rangeBacked s s.q.ptr s.q.size.toNat = true) :
    ∃ t, commandStart code s = .next t := by
  rcases hc with rfl | rfl | rfl | rfl | rfl
  · exact ⟨_, startWriteRegister_backed (hb (.inl rfl))⟩
  · exact ⟨_, rfl⟩
  · by_cases h0 : s.q.size = 0
    · exact ⟨_, startStream_empty h0⟩
    · have hpiece : pieceOf s.q.size ≤ s.q.size.toNat := pieceOf_eq_chunkSize s.q.size ▸ chunkSize_le_remaining s.q.size
      exact ⟨_, startStream_write hq h0 (rangeBacked_of_le hpiece (hb (.inr rfl)))⟩
  · by_cases h0 : s.q.size = 0
    · exact ⟨_, startStream_empty h0⟩
    · exact ⟨_, startStream_read hq h0⟩
  · exact ⟨_, rfl⟩

/-! ### GO and the commands -/

theorem exec_go_of_busy {cb ab : Bool} {s : State} (hb : s.busy = true) :
    exec (.go cb ab) s = if cb then callbackReturn ab s else .next s := if_pos hb

theorem exec_go_of_not_busy {cb ab : Bool} {s : State} (hb : s.busy = false) :
    exec (.go cb ab) s = dispatchCommand s.cmd (requestOf s) s := if_neg (by simp [hb])

/-- The command a code names runs as the GO of that code (R80, R286). -/
theorem exec_of_commandOf {code : Byte} {req : Request} {i : Instr} {s : State} (h : commandOf code req = some i) :
    exec i s = dispatchCommand code req s := by
  unfold commandOf at h
  split at h
  case isTrue hc => subst hc; obtain rfl := Option.some.inj h; rfl
  split at h
  case isTrue hc => subst hc; obtain rfl := Option.some.inj h; rfl
  split at h
  case isTrue hc => subst hc; obtain rfl := Option.some.inj h; rfl
  split at h
  case isTrue hc => subst hc; obtain rfl := Option.some.inj h; rfl
  split at h
  case isTrue hc => subst hc; obtain rfl := Option.some.inj h; rfl
  case isFalse => cases h

/-- The block of request registers decodes to the command its CODE names only (R80, R281). -/
theorem commandOf_of_decodeBlock {code : Byte} {req : Request} {i : Instr} (h : decodeBlock (requestBlock code req) = .ok i) :
    commandOf code req = some i := by
  simp only [decodeBlock, wordsOf_requestBlock] at h
  split at h
  · split at h
    case h_1 j hj =>
      obtain rfl := Except.ok.inj h
      simpa using hj
    case h_2 => cases h
  · cases h

/-! ### The callback's return -/

/-- R292: outside CB_WAIT the return from the callback is ignored. -/
theorem callbackReturn_elsewhere {s : State} (h : s.engine ≠ .cbWait) (abort : Bool) : callbackReturn abort s = .next s := if_neg h

/-- The stream as its callback returns to it, CHUNK_PENDING cleared (R291). -/
def callbackReturned (s : State) : State := { s with chunkPending := false }

/-- R291: in CB_WAIT the return from the callback continues the stream. -/
theorem callbackReturn_of_cbWait {s : State} (h : s.engine = .cbWait) (abort : Bool) :
    callbackReturn abort s = continueStream abort (callbackReturned s) := if_pos h

/-- R239: a pending end is taken first, with or without ABORT. -/
theorem continueStream_pending {s : State} (h : s.e.pending = true) (abort : Bool) :
    continueStream abort s = .next (ended s.e.status s) := if_pos h

/-- R238: without a pending end ABORT ends the stream with `ERR_ABORTED`. -/
theorem continueStream_abort {s : State} (h : s.e.pending = false) : continueStream true s = .next (ended (-3) s) := by
  rw [continueStream, if_neg (by simp [h]), if_pos rfl]
  rfl

/-! ### The answer to a set-timeout request -/

/-- Only a `READ_FIFO` writes `DATA_SIZE` at its end (R240, R306). -/
theorem finish_of_not_read {s : State} (h : s.q.code ≠ 0x08) (st : Word) : finish st s = complete st s := by
  rw [finish, if_neg h]

/-- In CTL_WAIT an answer of the transport is the answer to the set-timeout request (R145). -/
theorem step_response_of_ctlWait {s : State} {r : Word} {d : List Byte} (hm : nextMove s = .response r d)
    (he : s.engine = .ctlWait) : step s = .next (ctlResponse r (popMove s)) := by
  rw [step_response hm, response, popMove_engine, he]

end Sys2Proof.Machine

namespace Sys2Proof.Proofs

open Sys2Proof Sys2Proof.Machine Sys2Proof.Claims

/-! ## The statements about host control (46_host_control.md) -/

/-- Settles O24: the checks pass, the buffer is backed where the start reads it, and the start has ended an empty stream
or moved the engine on. -/
theorem goLatchesTheRequestAndStarts : Obligations.GoLatchesTheRequestAndStarts := by
  unfold Obligations.GoLatchesTheRequestAndStarts
  intro cb ab s hb hp hv hbacked empty
  have hlegal := legalCode_of_not_violates hv
  obtain ⟨t, ht⟩ := commandStart_backed (s := accepted s.cmd (requestOf s) s) hlegal rfl
    fun hc => rangeBacked_of_backed_eq (hbacked hc) rfl
  refine ⟨t, (exec_go_of_not_busy hb).trans ((dispatchCommand_of_not_violates hb hv).trans ht), ?_⟩
  rcases commandStart_next hlegal ht with ⟨hc, hsize, rfl⟩ | ⟨hne, hview⟩
  · have hsize : s.dataSize = 0 := hsize
    have hempty : empty = true := by simpa [empty, hsize] using hc
    simp [hempty, ended, accepted, hsize]
  · have hne : s.cmd = 0x04 ∨ s.cmd = 0x08 → s.dataSize ≠ 0 := hne
    have hempty : empty = false := by simpa [empty] using hne
    simpa [goView, accepted, hempty, hp] using hview

/-- Settles O25: the checks are the contract; a command that passes them has BUSY set once it has started,
unless it is an empty stream. -/
theorem contractViolationRefusedAtGo : Obligations.ContractViolationRefusedAtGo := by
  unfold Obligations.ContractViolationRefusedAtGo
  refine ⟨fun cb ab s hb hv => ?_, fun code req i s hi hb hv => ?_, fun cb ab s t hb hv h => ?_⟩
  · exact (exec_go_of_not_busy hb).trans (dispatchCommand_of_violates hb hv)
  · exact (exec_of_commandOf hi).trans (dispatchCommand_of_violates hb hv)
  · rw [exec_go_of_not_busy hb, dispatchCommand_of_not_violates hb hv] at h
    rcases commandStart_next (legalCode_of_not_violates hv) h with ⟨-, hsize, rfl⟩ | ⟨-, hview⟩
    · exact .inr ⟨hsize, rfl⟩
    · exact .inl (congrArg (·.2.1) hview)

/-- Settles O26: BUSY decides whether a GO is looked at, and only with BUSY set its CB_ACK. -/
theorem goIgnoredWhileBusy : Obligations.GoIgnoredWhileBusy := by
  unfold Obligations.GoIgnoredWhileBusy
  refine ⟨fun ab s hb => exec_go_of_busy hb, fun i s hport hb => ?_, fun ab s hb he => ?_, fun s hb he => ?_, fun cb ab s hb => ?_⟩
  · obtain ⟨code, req, hrun⟩ := exec_command hport
    rw [hrun, dispatchCommand_of_busy hb]
  · exact (exec_go_of_busy hb).trans (callbackReturn_elsewhere he ab)
  · exact ⟨exec_go_of_busy hb, exec_go_of_busy hb⟩
  · rw [exec_go_of_not_busy hb, exec_go_of_not_busy hb]

/-- Settles O33: in CB_WAIT the stream is continued: a pending end first, then ABORT, then the next chunk. -/
theorem callbackReturnResumesTheStream : Obligations.CallbackReturnResumesTheStream := by
  unfold Obligations.CallbackReturnResumesTheStream
  intro s he
  have hack : exec .cbAck s = continueStream false (callbackReturned s) := callbackReturn_of_cbWait he false
  have habort : exec .cbAckAbort s = continueStream true (callbackReturned s) := callbackReturn_of_cbWait he true
  rw [hack, habort]
  refine ⟨fun hp => ?_, fun hp => ?_, fun hp hc hb => ?_, fun hp hc => ?_⟩
  · exact ⟨continueStream_pending (s := callbackReturned s) hp false, continueStream_pending (s := callbackReturned s) hp true⟩
  · exact continueStream_abort (s := callbackReturned s) hp
  · rw [continueStream_goesOn (s := callbackReturned s) hp]
    exact startChunk_write (s := callbackReturned s) hc (rangeBacked_of_backed_eq hb rfl)
  · rw [continueStream_goesOn (s := callbackReturned s) hp]
    exact startChunk_read (s := callbackReturned s) hc

/-- Settles O23: the fetch decodes the move's bytes; a GO dispatches the command its register block decodes to. -/
theorem stepRunsTheDecodedInstruction : Obligations.StepRunsTheDecodedInstruction := by
  unfold Obligations.StepRunsTheDecodedInstruction
  refine ⟨fun s w i hm hd => ?_, fun s w i hm hd => ?_, fun s cb ab i hb hd => ?_, fun s i hm he hf hd => ?_,
    fun s d i hm he hlen hd => ?_, fun s => ⟨rfl, rfl⟩⟩
  · exact step_of_fetch (by rw [fetch_control hm, hd]; rfl)
  · exact step_of_fetch (by rw [fetch_status hm, hd]; rfl)
  · rw [exec_go_of_not_busy hb, exec_of_commandOf (commandOf_of_decodeBlock hd)]
  · exact step_of_fetch (by rw [fetch_send_register hm he hf, hd]; rfl)
  · exact step_of_fetch (fetch_ack hm he hlen hd)

/-- Settles O31: no check stands between the GO and its request. -/
theorem setChannelTimeoutIssuesItsRequest : Obligations.SetChannelTimeoutIssuesItsRequest := by
  unfold Obligations.SetChannelTimeoutIssuesItsRequest
  intro req s hb
  have hstart : exec (.setChannelTimeout req) s = startSetChannelTimeout (acceptGo 0x10 req s) := runCommand_starts hb rfl
  rw [hstart, acceptGo_eq_accepted]
  rfl

/-- Settles O32: the answer's sign decides about CHAN_TIMEOUT, and a SET_CHANNEL_TIMEOUT writes no DATA_SIZE. -/
theorem setChannelTimeoutAnswer : Obligations.SetChannelTimeoutAnswer := by
  unfold Obligations.SetChannelTimeoutAnswer
  intro r d s hm he hc
  have hread : s.q.code ≠ 0x08 := by rw [hc]; decide
  rw [step_response_of_ctlWait hm he, ctlResponse, finish_of_not_read]
  · simp [complete, BitVec.msb_eq_toInt]
  · exact hread

/-- Settles O34: only CB_WAIT takes the return from the callback, and a CONTROL word without GO and CB_ACK is no action. -/
theorem callbackReturnIgnoredElsewhere : Obligations.CallbackReturnIgnoredElsewhere := by
  unfold Obligations.CallbackReturnIgnoredElsewhere
  refine ⟨fun s he => ⟨callbackReturn_elsewhere he false, callbackReturn_elsewhere he true⟩, fun s w hm hgo hcb => ?_⟩
  obtain ⟨-, -, -, hnone, -⟩ := actionOfAControlOrStatusWord w
  exact step_of_noAction hm (.inl rfl) (by rw [fetch_control hm, hnone hgo hcb]; rfl)

/-- Settles O36: bit 1 of the word decides between DONE_CLEAR and no action. -/
theorem statusWriteClearsDone : Obligations.StatusWriteClearsDone := by
  unfold Obligations.StatusWriteClearsDone
  refine ⟨fun s => rfl, fun s w hm => ?_⟩
  obtain ⟨-, -, -, -, hclear, hnone⟩ := actionOfAControlOrStatusWord w
  refine ⟨fun h1 => ?_, fun h1 => ?_⟩
  · exact step_of_fetch (by rw [fetch_status hm, hclear h1]; rfl)
  · exact step_of_noAction hm (.inr rfl) (by rw [fetch_status hm, hnone h1]; rfl)

end Sys2Proof.Proofs

namespace Sys2Proof.Machine

/-! ## Reset (70_reset_and_hazards.md) -/

/-- INFO is a constant (R37). -/
theorem readReg_info (s : State) : readReg 0x38 s = 0x01F0FF38 := rfl

/-- Right after reset every offset but INFO's reads 0 (R340, and R38 for an offset with no register). -/
theorem readReg_reset {offset : Nat} (h : offset ≠ 0x38) : readReg offset State.reset = 0 := by
  rw [readReg, if_neg h]
  -- one offset after another: the register that stands there is 0
  repeat refine ite_eq_iff'.2 ⟨fun _ => rfl, fun _ => ?_⟩
  rfl

/-- A reset gives each register the value it has in `State.reset`; only hidden records are free (R340, log 9). -/
theorem readReg_resetBlock (offset : Nat) (s : State) : readReg offset (resetBlock s) = readReg offset State.reset := rfl

/-- A reset move runs no instruction: it resets the block (R341). -/
theorem step_rst {s : State} (hm : nextMove s = .rst) : step s = .next (resetBlock (popMove s)) := by
  have hf : fetch s = none := by simp [fetch, hm]
  rw [step, hf, hm]
  rfl

/-- The memory after power-on is empty, and the frame buffers have their sizes (R43, R47). -/
theorem bounds_reset : Bounds State.reset where
  memory := rfl
  txbuf := List.length_replicate
  rxbuf := List.length_replicate
  txlen := Nat.zero_le _
  rxn := Nat.zero_le _
  chunk := Nat.zero_le _

end Sys2Proof.Machine

namespace Sys2Proof.Proofs

open Sys2Proof Sys2Proof.Machine Sys2Proof.Claims

/-! ## The statements about reset (70_reset_and_hazards.md) -/

/-- Settles O20: the step resets the block, whose registers then read as in `State.reset`; the rest is the environment's and stays. -/
theorem resetClearsTheBlockInOneStep : Obligations.ResetClearsTheBlockInOneStep := by
  unfold Obligations.ResetClearsTheBlockInOneStep
  intro s hm
  have reads (offset : Nat) (h : offset ≠ 0x38) : readReg offset (resetBlock (popMove s)) = 0 :=
    (readReg_resetBlock offset _).trans (readReg_reset h)
  exact ⟨resetBlock (popMove s), step_rst hm, rfl, rfl, rfl, reads, readReg_info _, rfl, rfl, rfl, rfl⟩

/-- Settles O19: every register but INFO reads 0, and the engine, the outstanding request and the interrupt output are the reset state's own. -/
theorem resetRegisterValues : Obligations.ResetRegisterValues := by
  unfold Obligations.ResetRegisterValues
  refine ⟨?_, ?_, ?_, ?_, ?_, ?_, ?_, ?_, ?_, ?_, ?_, ?_, ?_, ?_, readReg_info _, rfl, rfl, rfl⟩
  all_goals exact readReg_reset (by decide)

/-- Settles O21: the reset state is idle and within its bounds. -/
theorem invariantAtReset : Obligations.InvariantAtReset := by
  unfold Obligations.InvariantAtReset
  exact .of_idle bounds_reset rfl rfl rfl rfl

end Sys2Proof.Proofs
